-- ==== Sys2Proof/Word.lean ====
section
/-! DEFINITION. The two word types of the unit (spec/00_scope.md R12): an 8-bit byte and a 16-bit word. -/

namespace Sys2Proof

/-- A byte: 8 bits, bit 7 the most significant (R12). -/
abbrev Byte := BitVec 8

/-- A word: 16 bits, bit 15 the most significant (R12). Addresses and the program counter are words. -/
abbrev Word := BitVec 16

end Sys2Proof
end

