-- ==== Sys2Proof/Config.lean ====
section
/-! DEFINITION. The named constants and parameters of spec/00_scope.md R11. The unit has no free value: with the
opcode ROM and the launch memory fixed it is a deterministic function of the host operations
(spec/93_implementation_defined.md). The opcode ROM `OPROM` stands in Decode.lean, the launch memory `M0` is an
argument of `State.resetTo` and of the host operations. -/

namespace Sys2Proof.Config

/-- `RESET_PC` (R11, R280): the program counter after reset; no vector is read (R284). -/
def resetPc : Word := 0x0000#16

/-- `RESET_SP` (R11, R285): the stack pointer after reset, the top of page 1. -/
def resetSp : Byte := 0xFF#8

/-- `HALT_OPCODE` (R11, R210): the opcode byte of the termination instruction, mnemonic `BRK`. -/
def haltOpcode : Byte := 0x00#8

/-- `HEX_UPPER` (R11, R231): whether the disassembler prints hexadecimal digits in upper case; default false.
DESIGN CHOICE (log entry 8): the model fixes the spec's default; safe. -/
def hexUpper : Bool := false

/-- The number of byte locations of the one address space (R31, R50). -/
def memorySize : Nat := 65536

end Sys2Proof.Config
end

