-- ==== Sys2Proof/Syntax.lean ====
section
/-! DEFINITION. Instructions as syntax. `Instr` has one constructor for each of the 47 handler rules that
spec/49_fetch_dispatch_disassembler.md R220 lists (R141 to R146, R151 to R158, R161 to R166, R171 to R174, R181 to
R188, R190 to R193, R201 to R211), each carrying the instruction's operand in its addressing mode, the "tagged enum
over ... mnemonic carrying its addressing mode" of R222. DESIGN CHOICE (log entry 1); safe. -/

namespace Sys2Proof

/-- The mode tags: the twelve of R14 and `inv` for an invalid opcode byte (R81). -/
inductive Mode where
  | imp | imm | zp | zpx | zpy | abs | absx | absy | indx | indy | ind | rel | inv
  deriving DecidableEq, Repr

/-- An operand that designates an address, in one of the nine modes of the resolver's `ResolveAddr` (R115). The
argument is what the instruction encodes: `zp8` or `{hi8, lo8}` (R82, R83). -/
inductive AddrOperand where
  | zp (zp8 : Byte)
  | zpx (zp8 : Byte)
  | zpy (zp8 : Byte)
  | abs (abs16 : Word)
  | absx (abs16 : Word)
  | absy (abs16 : Word)
  | indx (zp8 : Byte)
  | indy (zp8 : Byte)
  | ind (ptr16 : Word)
  deriving DecidableEq, Repr

/-- An operand that is read as a value, `ResolveValue` (R116): the immediate byte, or the byte at an address. -/
inductive ValueOperand where
  | imm (imm8 : Byte)
  | mem (m : AddrOperand)
  deriving DecidableEq, Repr

/-- The operand of a shift or rotate (R170): the accumulator (mode `IMP`) or a memory cell. -/
inductive ShiftOperand where
  | acc
  | mem (m : AddrOperand)
  deriving DecidableEq, Repr

/-- The mode tag of an address operand. -/
def AddrOperand.mode : AddrOperand → Mode
  | .zp _ => .zp
  | .zpx _ => .zpx
  | .zpy _ => .zpy
  | .abs _ => .abs
  | .absx _ => .absx
  | .absy _ => .absy
  | .indx _ => .indx
  | .indy _ => .indy
  | .ind _ => .ind

/-- The mode tag of a value operand. -/
def ValueOperand.mode : ValueOperand → Mode
  | .imm _ => .imm
  | .mem m => m.mode

/-- The mode tag of a shift operand; the accumulator is mode `IMP` (R104). -/
def ShiftOperand.mode : ShiftOperand → Mode
  | .acc => .imp
  | .mem m => m.mode

/-- The instructions. A branch carries its displacement byte `rel8` (R84), a jump its 16-bit operand, an invalid
opcode its byte (R211). -/
inductive Instr where
  -- load and store (spec/42_load_store.md)
  | lda (src : ValueOperand)
  | ldx (src : ValueOperand)
  | ldy (src : ValueOperand)
  | sta (dst : AddrOperand)
  | stx (dst : AddrOperand)
  | sty (dst : AddrOperand)
  -- add and subtract with carry, increment and decrement (spec/43_arithmetic_incdec.md)
  | adc (src : ValueOperand)
  | sbc (src : ValueOperand)
  | inc (dst : AddrOperand)
  | dec (dst : AddrOperand)
  | inx
  | iny
  | dex
  | dey
  -- logical and compare (spec/44_logical_compare.md)
  | and (src : ValueOperand)
  | ora (src : ValueOperand)
  | eor (src : ValueOperand)
  | cmp (src : ValueOperand)
  | cpx (src : ValueOperand)
  | cpy (src : ValueOperand)
  -- shift and rotate (spec/45_shift_rotate.md)
  | asl (dst : ShiftOperand)
  | lsr (dst : ShiftOperand)
  | rol (dst : ShiftOperand)
  | ror (dst : ShiftOperand)
  -- conditional branches (spec/46_branch.md)
  | bpl (rel8 : Byte)
  | bmi (rel8 : Byte)
  | bvc (rel8 : Byte)
  | bvs (rel8 : Byte)
  | bcc (rel8 : Byte)
  | bcs (rel8 : Byte)
  | bne (rel8 : Byte)
  | beq (rel8 : Byte)
  -- jump, call and return (spec/47_jump_call_return.md)
  | jmpAbs (abs16 : Word)
  | jmpInd (ptr16 : Word)
  | jsr (abs16 : Word)
  | rts
  -- flags, stack, termination, invalid opcodes (spec/48_flag_stack_halt.md)
  | clc
  | sec
  | cli
  | sei
  | clv
  | cld
  | sed
  | pha
  | pla
  | brk
  | invalid (opcode : Byte)
  deriving DecidableEq, Repr

/-- The handlers an opcode ROM entry names (R220): one for each instruction rule, without an operand. -/
inductive Handler where
  | lda | ldx | ldy | sta | stx | sty
  | adc | sbc | inc | dec | inx | iny | dex | dey
  | and | ora | eor | cmp | cpx | cpy
  | asl | lsr | rol | ror
  | bpl | bmi | bvc | bvs | bcc | bcs | bne | beq
  | jmpAbs | jmpInd | jsr | rts
  | clc | sec | cli | sei | clv | cld | sed | pha | pla | brk
  | invalid
  deriving DecidableEq, Repr

/-- The handler that executes an instruction. -/
def Instr.handler : Instr → Handler
  | .lda _ => .lda
  | .ldx _ => .ldx
  | .ldy _ => .ldy
  | .sta _ => .sta
  | .stx _ => .stx
  | .sty _ => .sty
  | .adc _ => .adc
  | .sbc _ => .sbc
  | .inc _ => .inc
  | .dec _ => .dec
  | .inx => .inx
  | .iny => .iny
  | .dex => .dex
  | .dey => .dey
  | .and _ => .and
  | .ora _ => .ora
  | .eor _ => .eor
  | .cmp _ => .cmp
  | .cpx _ => .cpx
  | .cpy _ => .cpy
  | .asl _ => .asl
  | .lsr _ => .lsr
  | .rol _ => .rol
  | .ror _ => .ror
  | .bpl _ => .bpl
  | .bmi _ => .bmi
  | .bvc _ => .bvc
  | .bvs _ => .bvs
  | .bcc _ => .bcc
  | .bcs _ => .bcs
  | .bne _ => .bne
  | .beq _ => .beq
  | .jmpAbs _ => .jmpAbs
  | .jmpInd _ => .jmpInd
  | .jsr _ => .jsr
  | .rts => .rts
  | .clc => .clc
  | .sec => .sec
  | .cli => .cli
  | .sei => .sei
  | .clv => .clv
  | .cld => .cld
  | .sed => .sed
  | .pha => .pha
  | .pla => .pla
  | .brk => .brk
  | .invalid _ => .invalid

/-- The mode tag of an instruction (R81). -/
def Instr.mode : Instr → Mode
  | .lda v | .ldx v | .ldy v | .adc v | .sbc v => v.mode
  | .and v | .ora v | .eor v | .cmp v | .cpx v | .cpy v => v.mode
  | .sta m | .stx m | .sty m | .inc m | .dec m => m.mode
  | .asl o | .lsr o | .rol o | .ror o => o.mode
  | .bpl _ | .bmi _ | .bvc _ | .bvs _ | .bcc _ | .bcs _ | .bne _ | .beq _ => .rel
  | .jmpAbs _ | .jsr _ => .abs
  | .jmpInd _ => .ind
  | .inx | .iny | .dex | .dey | .rts | .clc | .sec | .cli | .sei | .clv | .cld | .sed | .pha | .pla | .brk => .imp
  | .invalid _ => .inv

end Sys2Proof
end

