-- ==== Sys2Proof/WellFormed.lean ====
section
/-! DEFINITION. Which instruction terms an opcode byte selects: the pairs of mnemonic and mode that
spec/30_encoding.md R86 offers, and the 117 invalid bytes of R90. The operand bytes themselves have no reserved
values (R91). A term outside these pairs is still given its rule's meaning by the machine (the rules are keyed by
mnemonic and mode, R220), but no opcode byte decodes to it (DESIGN CHOICE, log entry 10; safe). -/

namespace Sys2Proof

/-- The modes the table of R86 offers each handler in. -/
def Handler.modes : Handler → List Mode
  | .lda => [.imm, .zp, .zpx, .abs, .absx, .absy, .indx, .indy]
  | .ldx => [.imm, .zp, .zpy, .abs, .absy]
  | .ldy => [.imm, .zp, .zpx, .abs, .absx]
  | .sta => [.zp, .zpx, .abs, .absx, .absy, .indx, .indy]
  | .stx => [.zp, .zpy, .abs]
  | .sty => [.zp, .zpx, .abs]
  | .adc => [.imm, .zp, .zpx, .abs, .absx, .absy, .indx, .indy]
  | .sbc => [.imm, .zp, .zpx, .abs, .absx, .absy, .indx, .indy]
  | .inc => [.zp, .zpx, .abs, .absx]
  | .dec => [.zp, .zpx, .abs, .absx]
  | .and => [.imm, .zp, .zpx, .abs, .absx, .absy, .indx, .indy]
  | .ora => [.imm, .zp, .zpx, .abs, .absx, .absy, .indx, .indy]
  | .eor => [.imm, .zp, .zpx, .abs, .absx, .absy, .indx, .indy]
  | .cmp => [.imm, .zp, .zpx, .abs, .absx, .absy, .indx, .indy]
  | .cpx => [.imm, .zp, .abs]
  | .cpy => [.imm, .zp, .abs]
  | .asl => [.imp, .zp, .zpx, .abs, .absx]
  | .lsr => [.imp, .zp, .zpx, .abs, .absx]
  | .rol => [.imp, .zp, .zpx, .abs, .absx]
  | .ror => [.imp, .zp, .zpx, .abs, .absx]
  | .bpl | .bmi | .bvc | .bvs | .bcc | .bcs | .bne | .beq => [.rel]
  | .jmpAbs => [.abs]
  | .jmpInd => [.ind]
  | .jsr => [.abs]
  | .inx | .iny | .dex | .dey | .rts => [.imp]
  | .clc | .sec | .cli | .sei | .clv | .cld | .sed | .pha | .pla | .brk => [.imp]
  | .invalid => [.inv]

/-- The invalid opcode bytes, row by row as R90 lists them. -/
def invalidBytes : List Byte :=
  [0x02#8, 0x03#8, 0x04#8, 0x07#8, 0x08#8, 0x0B#8, 0x0C#8, 0x0F#8] ++
  [0x12#8, 0x13#8, 0x14#8, 0x17#8, 0x1A#8, 0x1B#8, 0x1C#8, 0x1F#8] ++
  [0x22#8, 0x23#8, 0x24#8, 0x27#8, 0x28#8, 0x2B#8, 0x2C#8, 0x2F#8] ++
  [0x32#8, 0x33#8, 0x34#8, 0x37#8, 0x3A#8, 0x3B#8, 0x3C#8, 0x3F#8] ++
  [0x40#8, 0x42#8, 0x43#8, 0x44#8, 0x47#8, 0x4B#8, 0x4F#8] ++
  [0x52#8, 0x53#8, 0x54#8, 0x57#8, 0x5A#8, 0x5B#8, 0x5C#8, 0x5F#8] ++
  [0x62#8, 0x63#8, 0x64#8, 0x67#8, 0x6B#8, 0x6F#8] ++
  [0x72#8, 0x73#8, 0x74#8, 0x77#8, 0x7A#8, 0x7B#8, 0x7C#8, 0x7F#8] ++
  [0x80#8, 0x82#8, 0x83#8, 0x87#8, 0x89#8, 0x8A#8, 0x8B#8, 0x8F#8] ++
  [0x92#8, 0x93#8, 0x97#8, 0x98#8, 0x9A#8, 0x9B#8, 0x9C#8, 0x9E#8, 0x9F#8] ++
  [0xA3#8, 0xA7#8, 0xA8#8, 0xAA#8, 0xAB#8, 0xAF#8] ++
  [0xB2#8, 0xB3#8, 0xB7#8, 0xBA#8, 0xBB#8, 0xBF#8] ++
  [0xC2#8, 0xC3#8, 0xC7#8, 0xCB#8, 0xCF#8] ++
  [0xD2#8, 0xD3#8, 0xD4#8, 0xD7#8, 0xDA#8, 0xDB#8, 0xDC#8, 0xDF#8] ++
  [0xE2#8, 0xE3#8, 0xE7#8, 0xEA#8, 0xEB#8, 0xEF#8] ++
  [0xF2#8, 0xF3#8, 0xF4#8, 0xF7#8, 0xFA#8, 0xFB#8, 0xFC#8, 0xFF#8]

/-- The instruction is one that some opcode byte selects: its mode is offered (R86), and an invalid opcode's byte is
one of the 117 (R90). -/
def Instr.wellFormed (i : Instr) : Bool :=
  i.handler.modes.contains i.mode &&
  match i with
  | .invalid op => invalidBytes.contains op
  | _ => true

end Sys2Proof
end

