-- ==== Sys2Proof/Decode.lean ====
section
/-! DEFINITION. From bytes to instructions and back (spec/30_encoding.md). The decoder reads the 256-entry opcode ROM
written out from the map by opcode byte of R88; the encoder is written from the other view, the table by mnemonic
and mode of R86. Byte order, bit fields and lengths stand here once. -/

namespace Sys2Proof

/-! ## Byte order and extension (R12, R51, R82 to R84) -/

/-- `{hi, lo} = hi * 256 + lo` (R83): the word whose high byte is `hi`. -/
def wordOf (hi lo : Byte) : Word := BitVec.ofNat 16 (256 * hi.toNat + lo.toNat)

/-- `w[15:8]`. -/
def hiByte (w : Word) : Byte := BitVec.ofNat 8 (w.toNat / 256)

/-- `w[7:0]`. -/
def loByte (w : Word) : Byte := BitVec.ofNat 8 (w.toNat % 256)

/-- `zext_16(v)`: the byte as a word with a zero high byte (R12). -/
def zext16 (v : Byte) : Word := BitVec.ofNat 16 v.toNat

/-- `sext_16(v)`: `v` if bit 7 is 0, else `v + 0xFF00` (R12). -/
def sext16 (v : Byte) : Word := if v.toNat < 128 then BitVec.ofNat 16 v.toNat else BitVec.ofNat 16 (v.toNat + 0xFF00)

/-! ## Lengths (R81, R89) -/

/-- `OperandBytes(mode)` (R89). -/
def Mode.operandBytes : Mode → Nat
  | .imp | .inv => 0
  | .imm | .zp | .zpx | .zpy | .indx | .indy | .rel => 1
  | .abs | .absx | .absy | .ind => 2

/-- The length of an instruction in bytes: the opcode and its operand bytes (R89). -/
def Instr.length (i : Instr) : Nat := 1 + i.mode.operandBytes

/-! ## The opcode ROM (R220, R88) -/

/-- An entry of the opcode ROM: the handler and the addressing mode; the third component, the mnemonic, is the
handler's (`RomEntry.mnemonic`). -/
structure RomEntry where
  handler : Handler
  mode : Mode
  deriving DecidableEq, Repr

/-- Opcodes 0x00 to 0x0F, the row 0 of R88. -/
def opromRow0 : List RomEntry :=
   [⟨.brk, .imp⟩, ⟨.ora, .indx⟩, ⟨.invalid, .inv⟩, ⟨.invalid, .inv⟩, ⟨.invalid, .inv⟩, ⟨.ora, .zp⟩,
    ⟨.asl, .zp⟩, ⟨.invalid, .inv⟩, ⟨.invalid, .inv⟩, ⟨.ora, .imm⟩, ⟨.asl, .imp⟩, ⟨.invalid, .inv⟩,
    ⟨.invalid, .inv⟩, ⟨.ora, .abs⟩, ⟨.asl, .abs⟩, ⟨.invalid, .inv⟩]

/-- Opcodes 0x10 to 0x1F, the row 1 of R88. -/
def opromRow1 : List RomEntry :=
   [⟨.bpl, .rel⟩, ⟨.ora, .indy⟩, ⟨.invalid, .inv⟩, ⟨.invalid, .inv⟩, ⟨.invalid, .inv⟩, ⟨.ora, .zpx⟩,
    ⟨.asl, .zpx⟩, ⟨.invalid, .inv⟩, ⟨.clc, .imp⟩, ⟨.ora, .absy⟩, ⟨.invalid, .inv⟩, ⟨.invalid, .inv⟩,
    ⟨.invalid, .inv⟩, ⟨.ora, .absx⟩, ⟨.asl, .absx⟩, ⟨.invalid, .inv⟩]

/-- Opcodes 0x20 to 0x2F, the row 2 of R88. -/
def opromRow2 : List RomEntry :=
   [⟨.jsr, .abs⟩, ⟨.and, .indx⟩, ⟨.invalid, .inv⟩, ⟨.invalid, .inv⟩, ⟨.invalid, .inv⟩, ⟨.and, .zp⟩,
    ⟨.rol, .zp⟩, ⟨.invalid, .inv⟩, ⟨.invalid, .inv⟩, ⟨.and, .imm⟩, ⟨.rol, .imp⟩, ⟨.invalid, .inv⟩,
    ⟨.invalid, .inv⟩, ⟨.and, .abs⟩, ⟨.rol, .abs⟩, ⟨.invalid, .inv⟩]

/-- Opcodes 0x30 to 0x3F, the row 3 of R88. -/
def opromRow3 : List RomEntry :=
   [⟨.bmi, .rel⟩, ⟨.and, .indy⟩, ⟨.invalid, .inv⟩, ⟨.invalid, .inv⟩, ⟨.invalid, .inv⟩, ⟨.and, .zpx⟩,
    ⟨.rol, .zpx⟩, ⟨.invalid, .inv⟩, ⟨.sec, .imp⟩, ⟨.and, .absy⟩, ⟨.invalid, .inv⟩, ⟨.invalid, .inv⟩,
    ⟨.invalid, .inv⟩, ⟨.and, .absx⟩, ⟨.rol, .absx⟩, ⟨.invalid, .inv⟩]

/-- Opcodes 0x40 to 0x4F, the row 4 of R88. -/
def opromRow4 : List RomEntry :=
   [⟨.invalid, .inv⟩, ⟨.eor, .indx⟩, ⟨.invalid, .inv⟩, ⟨.invalid, .inv⟩, ⟨.invalid, .inv⟩, ⟨.eor, .zp⟩,
    ⟨.lsr, .zp⟩, ⟨.invalid, .inv⟩, ⟨.pha, .imp⟩, ⟨.eor, .imm⟩, ⟨.lsr, .imp⟩, ⟨.invalid, .inv⟩, ⟨.jmpAbs, .abs⟩,
    ⟨.eor, .abs⟩, ⟨.lsr, .abs⟩, ⟨.invalid, .inv⟩]

/-- Opcodes 0x50 to 0x5F, the row 5 of R88. -/
def opromRow5 : List RomEntry :=
   [⟨.bvc, .rel⟩, ⟨.eor, .indy⟩, ⟨.invalid, .inv⟩, ⟨.invalid, .inv⟩, ⟨.invalid, .inv⟩, ⟨.eor, .zpx⟩,
    ⟨.lsr, .zpx⟩, ⟨.invalid, .inv⟩, ⟨.cli, .imp⟩, ⟨.eor, .absy⟩, ⟨.invalid, .inv⟩, ⟨.invalid, .inv⟩,
    ⟨.invalid, .inv⟩, ⟨.eor, .absx⟩, ⟨.lsr, .absx⟩, ⟨.invalid, .inv⟩]

/-- Opcodes 0x60 to 0x6F, the row 6 of R88. -/
def opromRow6 : List RomEntry :=
   [⟨.rts, .imp⟩, ⟨.adc, .indx⟩, ⟨.invalid, .inv⟩, ⟨.invalid, .inv⟩, ⟨.invalid, .inv⟩, ⟨.adc, .zp⟩,
    ⟨.ror, .zp⟩, ⟨.invalid, .inv⟩, ⟨.pla, .imp⟩, ⟨.adc, .imm⟩, ⟨.ror, .imp⟩, ⟨.invalid, .inv⟩, ⟨.jmpInd, .ind⟩,
    ⟨.adc, .abs⟩, ⟨.ror, .abs⟩, ⟨.invalid, .inv⟩]

/-- Opcodes 0x70 to 0x7F, the row 7 of R88. -/
def opromRow7 : List RomEntry :=
   [⟨.bvs, .rel⟩, ⟨.adc, .indy⟩, ⟨.invalid, .inv⟩, ⟨.invalid, .inv⟩, ⟨.invalid, .inv⟩, ⟨.adc, .zpx⟩,
    ⟨.ror, .zpx⟩, ⟨.invalid, .inv⟩, ⟨.sei, .imp⟩, ⟨.adc, .absy⟩, ⟨.invalid, .inv⟩, ⟨.invalid, .inv⟩,
    ⟨.invalid, .inv⟩, ⟨.adc, .absx⟩, ⟨.ror, .absx⟩, ⟨.invalid, .inv⟩]

/-- Opcodes 0x80 to 0x8F, the row 8 of R88. -/
def opromRow8 : List RomEntry :=
   [⟨.invalid, .inv⟩, ⟨.sta, .indx⟩, ⟨.invalid, .inv⟩, ⟨.invalid, .inv⟩, ⟨.sty, .zp⟩, ⟨.sta, .zp⟩, ⟨.stx, .zp⟩,
    ⟨.invalid, .inv⟩, ⟨.dey, .imp⟩, ⟨.invalid, .inv⟩, ⟨.invalid, .inv⟩, ⟨.invalid, .inv⟩, ⟨.sty, .abs⟩,
    ⟨.sta, .abs⟩, ⟨.stx, .abs⟩, ⟨.invalid, .inv⟩]

/-- Opcodes 0x90 to 0x9F, the row 9 of R88. -/
def opromRow9 : List RomEntry :=
   [⟨.bcc, .rel⟩, ⟨.sta, .indy⟩, ⟨.invalid, .inv⟩, ⟨.invalid, .inv⟩, ⟨.sty, .zpx⟩, ⟨.sta, .zpx⟩, ⟨.stx, .zpy⟩,
    ⟨.invalid, .inv⟩, ⟨.invalid, .inv⟩, ⟨.sta, .absy⟩, ⟨.invalid, .inv⟩, ⟨.invalid, .inv⟩, ⟨.invalid, .inv⟩,
    ⟨.sta, .absx⟩, ⟨.invalid, .inv⟩, ⟨.invalid, .inv⟩]

/-- Opcodes 0xA0 to 0xAF, the row A of R88. -/
def opromRowA : List RomEntry :=
   [⟨.ldy, .imm⟩, ⟨.lda, .indx⟩, ⟨.ldx, .imm⟩, ⟨.invalid, .inv⟩, ⟨.ldy, .zp⟩, ⟨.lda, .zp⟩, ⟨.ldx, .zp⟩,
    ⟨.invalid, .inv⟩, ⟨.invalid, .inv⟩, ⟨.lda, .imm⟩, ⟨.invalid, .inv⟩, ⟨.invalid, .inv⟩, ⟨.ldy, .abs⟩,
    ⟨.lda, .abs⟩, ⟨.ldx, .abs⟩, ⟨.invalid, .inv⟩]

/-- Opcodes 0xB0 to 0xBF, the row B of R88. -/
def opromRowB : List RomEntry :=
   [⟨.bcs, .rel⟩, ⟨.lda, .indy⟩, ⟨.invalid, .inv⟩, ⟨.invalid, .inv⟩, ⟨.ldy, .zpx⟩, ⟨.lda, .zpx⟩, ⟨.ldx, .zpy⟩,
    ⟨.invalid, .inv⟩, ⟨.clv, .imp⟩, ⟨.lda, .absy⟩, ⟨.invalid, .inv⟩, ⟨.invalid, .inv⟩, ⟨.ldy, .absx⟩,
    ⟨.lda, .absx⟩, ⟨.ldx, .absy⟩, ⟨.invalid, .inv⟩]

/-- Opcodes 0xC0 to 0xCF, the row C of R88. -/
def opromRowC : List RomEntry :=
   [⟨.cpy, .imm⟩, ⟨.cmp, .indx⟩, ⟨.invalid, .inv⟩, ⟨.invalid, .inv⟩, ⟨.cpy, .zp⟩, ⟨.cmp, .zp⟩, ⟨.dec, .zp⟩,
    ⟨.invalid, .inv⟩, ⟨.iny, .imp⟩, ⟨.cmp, .imm⟩, ⟨.dex, .imp⟩, ⟨.invalid, .inv⟩, ⟨.cpy, .abs⟩, ⟨.cmp, .abs⟩,
    ⟨.dec, .abs⟩, ⟨.invalid, .inv⟩]

/-- Opcodes 0xD0 to 0xDF, the row D of R88. -/
def opromRowD : List RomEntry :=
   [⟨.bne, .rel⟩, ⟨.cmp, .indy⟩, ⟨.invalid, .inv⟩, ⟨.invalid, .inv⟩, ⟨.invalid, .inv⟩, ⟨.cmp, .zpx⟩,
    ⟨.dec, .zpx⟩, ⟨.invalid, .inv⟩, ⟨.cld, .imp⟩, ⟨.cmp, .absy⟩, ⟨.invalid, .inv⟩, ⟨.invalid, .inv⟩,
    ⟨.invalid, .inv⟩, ⟨.cmp, .absx⟩, ⟨.dec, .absx⟩, ⟨.invalid, .inv⟩]

/-- Opcodes 0xE0 to 0xEF, the row E of R88. -/
def opromRowE : List RomEntry :=
   [⟨.cpx, .imm⟩, ⟨.sbc, .indx⟩, ⟨.invalid, .inv⟩, ⟨.invalid, .inv⟩, ⟨.cpx, .zp⟩, ⟨.sbc, .zp⟩, ⟨.inc, .zp⟩,
    ⟨.invalid, .inv⟩, ⟨.inx, .imp⟩, ⟨.sbc, .imm⟩, ⟨.invalid, .inv⟩, ⟨.invalid, .inv⟩, ⟨.cpx, .abs⟩,
    ⟨.sbc, .abs⟩, ⟨.inc, .abs⟩, ⟨.invalid, .inv⟩]

/-- Opcodes 0xF0 to 0xFF, the row F of R88. -/
def opromRowF : List RomEntry :=
   [⟨.beq, .rel⟩, ⟨.sbc, .indy⟩, ⟨.invalid, .inv⟩, ⟨.invalid, .inv⟩, ⟨.invalid, .inv⟩, ⟨.sbc, .zpx⟩,
    ⟨.inc, .zpx⟩, ⟨.invalid, .inv⟩, ⟨.sed, .imp⟩, ⟨.sbc, .absy⟩, ⟨.invalid, .inv⟩, ⟨.invalid, .inv⟩,
    ⟨.invalid, .inv⟩, ⟨.sbc, .absx⟩, ⟨.inc, .absx⟩, ⟨.invalid, .inv⟩]

/-- The sixteen rows of the map, by the opcode's high nibble. -/
def opromRows : List (List RomEntry) :=
  [opromRow0, opromRow1, opromRow2, opromRow3, opromRow4, opromRow5, opromRow6, opromRow7,
    opromRow8, opromRow9, opromRowA, opromRowB, opromRowC, opromRowD, opromRowE, opromRowF]

/-- `OPROM[op]` (R220): row = high nibble, column = low nibble (R88). The default of `getD` is never used: there are
sixteen rows of sixteen entries. DESIGN CHOICE (log entry 2): the parameter `OPROM` is fixed at the spec's default. -/
def oprom (op : Byte) : RomEntry :=
  (opromRows.getD (op.toNat / 16) []).getD (op.toNat % 16) ⟨.invalid, .inv⟩

/-- The mnemonic of a handler (R86, R95); `???` for the invalid-opcode handler. -/
def Handler.mnemonic : Handler → String
  | .lda => "LDA"
  | .ldx => "LDX"
  | .ldy => "LDY"
  | .sta => "STA"
  | .stx => "STX"
  | .sty => "STY"
  | .adc => "ADC"
  | .sbc => "SBC"
  | .inc => "INC"
  | .dec => "DEC"
  | .inx => "INX"
  | .iny => "INY"
  | .dex => "DEX"
  | .dey => "DEY"
  | .and => "AND"
  | .ora => "ORA"
  | .eor => "EOR"
  | .cmp => "CMP"
  | .cpx => "CPX"
  | .cpy => "CPY"
  | .asl => "ASL"
  | .lsr => "LSR"
  | .rol => "ROL"
  | .ror => "ROR"
  | .bpl => "BPL"
  | .bmi => "BMI"
  | .bvc => "BVC"
  | .bvs => "BVS"
  | .bcc => "BCC"
  | .bcs => "BCS"
  | .bne => "BNE"
  | .beq => "BEQ"
  | .jmpAbs => "JMP"
  | .jmpInd => "JMP"
  | .jsr => "JSR"
  | .rts => "RTS"
  | .clc => "CLC"
  | .sec => "SEC"
  | .cli => "CLI"
  | .sei => "SEI"
  | .clv => "CLV"
  | .cld => "CLD"
  | .sed => "SED"
  | .pha => "PHA"
  | .pla => "PLA"
  | .brk => "BRK"
  | .invalid => "???"

/-- The mnemonic of a ROM entry (R220). -/
def RomEntry.mnemonic (e : RomEntry) : String := e.handler.mnemonic

/-! ## The decoder (R85) -/

/-- Why a list of bytes is no instruction. With the ROM of R88 every opcode byte is accepted, so only a list that
ends too early is rejected. -/
inductive DecodeError where
  /-- There is no opcode byte. Safe: nothing is executed. -/
  | noOpcode
  /-- The operand bytes after `opcode` are missing. Safe: nothing is executed. -/
  | missingOperand (opcode : Byte)
  /-- The ROM entry pairs a handler with a mode it has no operand for. No entry of the ROM does. Safe. -/
  | noSuchForm (handler : Handler) (mode : Mode)
  deriving DecidableEq, Repr

/-- The address operand of a mode, from the operand bytes `b1` and `b2` (R82, R83). -/
def addrOperand (mode : Mode) (b1 b2 : Byte) : Option AddrOperand :=
  match mode with
  | .zp => some (.zp b1)
  | .zpx => some (.zpx b1)
  | .zpy => some (.zpy b1)
  | .abs => some (.abs (wordOf b2 b1))
  | .absx => some (.absx (wordOf b2 b1))
  | .absy => some (.absy (wordOf b2 b1))
  | .indx => some (.indx b1)
  | .indy => some (.indy b1)
  | .ind => some (.ind (wordOf b2 b1))
  | .imp | .imm | .rel | .inv => none

/-- The value operand of a mode. -/
def valueOperand (mode : Mode) (b1 b2 : Byte) : Option ValueOperand :=
  match mode with
  | .imm => some (.imm b1)
  | _ => (addrOperand mode b1 b2).map .mem

/-- The operand of a shift or rotate. -/
def shiftOperand (mode : Mode) (b1 b2 : Byte) : Option ShiftOperand :=
  match mode with
  | .imp => some .acc
  | _ => (addrOperand mode b1 b2).map .mem

/-- `i` where the mode is `want`, else no instruction. -/
def inMode (mode want : Mode) (i : Instr) : Option Instr := if mode = want then some i else none

/-- The instruction of a ROM entry with the opcode byte `op` and the operand bytes `b1`, `b2` (R87). -/
def RomEntry.instr (e : RomEntry) (op b1 b2 : Byte) : Option Instr :=
  match e.handler with
  | .lda => (valueOperand e.mode b1 b2).map .lda
  | .ldx => (valueOperand e.mode b1 b2).map .ldx
  | .ldy => (valueOperand e.mode b1 b2).map .ldy
  | .sta => (addrOperand e.mode b1 b2).map .sta
  | .stx => (addrOperand e.mode b1 b2).map .stx
  | .sty => (addrOperand e.mode b1 b2).map .sty
  | .adc => (valueOperand e.mode b1 b2).map .adc
  | .sbc => (valueOperand e.mode b1 b2).map .sbc
  | .inc => (addrOperand e.mode b1 b2).map .inc
  | .dec => (addrOperand e.mode b1 b2).map .dec
  | .inx => inMode e.mode .imp .inx
  | .iny => inMode e.mode .imp .iny
  | .dex => inMode e.mode .imp .dex
  | .dey => inMode e.mode .imp .dey
  | .and => (valueOperand e.mode b1 b2).map .and
  | .ora => (valueOperand e.mode b1 b2).map .ora
  | .eor => (valueOperand e.mode b1 b2).map .eor
  | .cmp => (valueOperand e.mode b1 b2).map .cmp
  | .cpx => (valueOperand e.mode b1 b2).map .cpx
  | .cpy => (valueOperand e.mode b1 b2).map .cpy
  | .asl => (shiftOperand e.mode b1 b2).map .asl
  | .lsr => (shiftOperand e.mode b1 b2).map .lsr
  | .rol => (shiftOperand e.mode b1 b2).map .rol
  | .ror => (shiftOperand e.mode b1 b2).map .ror
  | .bpl => inMode e.mode .rel (.bpl b1)
  | .bmi => inMode e.mode .rel (.bmi b1)
  | .bvc => inMode e.mode .rel (.bvc b1)
  | .bvs => inMode e.mode .rel (.bvs b1)
  | .bcc => inMode e.mode .rel (.bcc b1)
  | .bcs => inMode e.mode .rel (.bcs b1)
  | .bne => inMode e.mode .rel (.bne b1)
  | .beq => inMode e.mode .rel (.beq b1)
  | .jmpAbs => inMode e.mode .abs (.jmpAbs (wordOf b2 b1))
  | .jmpInd => inMode e.mode .ind (.jmpInd (wordOf b2 b1))
  | .jsr => inMode e.mode .abs (.jsr (wordOf b2 b1))
  | .rts => inMode e.mode .imp .rts
  | .clc => inMode e.mode .imp .clc
  | .sec => inMode e.mode .imp .sec
  | .cli => inMode e.mode .imp .cli
  | .sei => inMode e.mode .imp .sei
  | .clv => inMode e.mode .imp .clv
  | .cld => inMode e.mode .imp .cld
  | .sed => inMode e.mode .imp .sed
  | .pha => inMode e.mode .imp .pha
  | .pla => inMode e.mode .imp .pla
  | .brk => inMode e.mode .imp .brk
  | .invalid => inMode e.mode .inv (.invalid op)

/-- The operand bytes `b1`, `b2` (0 where the mode has none) and the bytes after them, of a stream that must hold the
given number of operand bytes; lower address first (R80, R81). -/
def takeOperands : Nat → List Byte → Option (Byte × Byte × List Byte)
  | 0, rest => some (0, 0, rest)
  | 1, b1 :: rest => some (b1, 0, rest)
  | 2, b1 :: b2 :: rest => some (b1, b2, rest)
  | _, _ => none

/-- The instruction at the head of a list of bytes, and the bytes after it: a lookup of the opcode byte in the opcode
ROM, then as many operand bytes as the entry's mode has (R85, R89). -/
def decode : List Byte → Except DecodeError (Instr × List Byte)
  | [] => .error .noOpcode
  | op :: stream =>
    match takeOperands (oprom op).mode.operandBytes stream with
    | none => .error (.missingOperand op)
    | some (b1, b2, rest) =>
      match (oprom op).instr op b1 b2 with
      | none => .error (.noSuchForm (oprom op).handler (oprom op).mode)
      | some i => .ok (i, rest)

/-! ## The encoder (R86) -/

/-- The opcode byte of a mnemonic in a mode, cell by cell as R86 lists them; a blank cell has none. -/
def opcodeByte : Handler → Mode → Option Byte
  | .lda, .imm => some 0xA9#8
  | .lda, .zp => some 0xA5#8
  | .lda, .zpx => some 0xB5#8
  | .lda, .abs => some 0xAD#8
  | .lda, .absx => some 0xBD#8
  | .lda, .absy => some 0xB9#8
  | .lda, .indx => some 0xA1#8
  | .lda, .indy => some 0xB1#8
  | .ldx, .imm => some 0xA2#8
  | .ldx, .zp => some 0xA6#8
  | .ldx, .zpy => some 0xB6#8
  | .ldx, .abs => some 0xAE#8
  | .ldx, .absy => some 0xBE#8
  | .ldy, .imm => some 0xA0#8
  | .ldy, .zp => some 0xA4#8
  | .ldy, .zpx => some 0xB4#8
  | .ldy, .abs => some 0xAC#8
  | .ldy, .absx => some 0xBC#8
  | .sta, .zp => some 0x85#8
  | .sta, .zpx => some 0x95#8
  | .sta, .abs => some 0x8D#8
  | .sta, .absx => some 0x9D#8
  | .sta, .absy => some 0x99#8
  | .sta, .indx => some 0x81#8
  | .sta, .indy => some 0x91#8
  | .stx, .zp => some 0x86#8
  | .stx, .zpy => some 0x96#8
  | .stx, .abs => some 0x8E#8
  | .sty, .zp => some 0x84#8
  | .sty, .zpx => some 0x94#8
  | .sty, .abs => some 0x8C#8
  | .adc, .imm => some 0x69#8
  | .adc, .zp => some 0x65#8
  | .adc, .zpx => some 0x75#8
  | .adc, .abs => some 0x6D#8
  | .adc, .absx => some 0x7D#8
  | .adc, .absy => some 0x79#8
  | .adc, .indx => some 0x61#8
  | .adc, .indy => some 0x71#8
  | .sbc, .imm => some 0xE9#8
  | .sbc, .zp => some 0xE5#8
  | .sbc, .zpx => some 0xF5#8
  | .sbc, .abs => some 0xED#8
  | .sbc, .absx => some 0xFD#8
  | .sbc, .absy => some 0xF9#8
  | .sbc, .indx => some 0xE1#8
  | .sbc, .indy => some 0xF1#8
  | .inc, .zp => some 0xE6#8
  | .inc, .zpx => some 0xF6#8
  | .inc, .abs => some 0xEE#8
  | .inc, .absx => some 0xFE#8
  | .dec, .zp => some 0xC6#8
  | .dec, .zpx => some 0xD6#8
  | .dec, .abs => some 0xCE#8
  | .dec, .absx => some 0xDE#8
  | .inx, .imp => some 0xE8#8
  | .iny, .imp => some 0xC8#8
  | .dex, .imp => some 0xCA#8
  | .dey, .imp => some 0x88#8
  | .and, .imm => some 0x29#8
  | .and, .zp => some 0x25#8
  | .and, .zpx => some 0x35#8
  | .and, .abs => some 0x2D#8
  | .and, .absx => some 0x3D#8
  | .and, .absy => some 0x39#8
  | .and, .indx => some 0x21#8
  | .and, .indy => some 0x31#8
  | .ora, .imm => some 0x09#8
  | .ora, .zp => some 0x05#8
  | .ora, .zpx => some 0x15#8
  | .ora, .abs => some 0x0D#8
  | .ora, .absx => some 0x1D#8
  | .ora, .absy => some 0x19#8
  | .ora, .indx => some 0x01#8
  | .ora, .indy => some 0x11#8
  | .eor, .imm => some 0x49#8
  | .eor, .zp => some 0x45#8
  | .eor, .zpx => some 0x55#8
  | .eor, .abs => some 0x4D#8
  | .eor, .absx => some 0x5D#8
  | .eor, .absy => some 0x59#8
  | .eor, .indx => some 0x41#8
  | .eor, .indy => some 0x51#8
  | .cmp, .imm => some 0xC9#8
  | .cmp, .zp => some 0xC5#8
  | .cmp, .zpx => some 0xD5#8
  | .cmp, .abs => some 0xCD#8
  | .cmp, .absx => some 0xDD#8
  | .cmp, .absy => some 0xD9#8
  | .cmp, .indx => some 0xC1#8
  | .cmp, .indy => some 0xD1#8
  | .cpx, .imm => some 0xE0#8
  | .cpx, .zp => some 0xE4#8
  | .cpx, .abs => some 0xEC#8
  | .cpy, .imm => some 0xC0#8
  | .cpy, .zp => some 0xC4#8
  | .cpy, .abs => some 0xCC#8
  | .asl, .imp => some 0x0A#8
  | .asl, .zp => some 0x06#8
  | .asl, .zpx => some 0x16#8
  | .asl, .abs => some 0x0E#8
  | .asl, .absx => some 0x1E#8
  | .lsr, .imp => some 0x4A#8
  | .lsr, .zp => some 0x46#8
  | .lsr, .zpx => some 0x56#8
  | .lsr, .abs => some 0x4E#8
  | .lsr, .absx => some 0x5E#8
  | .rol, .imp => some 0x2A#8
  | .rol, .zp => some 0x26#8
  | .rol, .zpx => some 0x36#8
  | .rol, .abs => some 0x2E#8
  | .rol, .absx => some 0x3E#8
  | .ror, .imp => some 0x6A#8
  | .ror, .zp => some 0x66#8
  | .ror, .zpx => some 0x76#8
  | .ror, .abs => some 0x6E#8
  | .ror, .absx => some 0x7E#8
  | .bpl, .rel => some 0x10#8
  | .bmi, .rel => some 0x30#8
  | .bvc, .rel => some 0x50#8
  | .bvs, .rel => some 0x70#8
  | .bcc, .rel => some 0x90#8
  | .bcs, .rel => some 0xB0#8
  | .bne, .rel => some 0xD0#8
  | .beq, .rel => some 0xF0#8
  | .jmpAbs, .abs => some 0x4C#8
  | .jmpInd, .ind => some 0x6C#8
  | .jsr, .abs => some 0x20#8
  | .rts, .imp => some 0x60#8
  | .clc, .imp => some 0x18#8
  | .sec, .imp => some 0x38#8
  | .cli, .imp => some 0x58#8
  | .sei, .imp => some 0x78#8
  | .clv, .imp => some 0xB8#8
  | .cld, .imp => some 0xD8#8
  | .sed, .imp => some 0xF8#8
  | .pha, .imp => some 0x48#8
  | .pla, .imp => some 0x68#8
  | .brk, .imp => some 0x00#8
  | _, _ => none

/-- The operand bytes of an address operand, in memory order: low byte first (R83). -/
def AddrOperand.bytes : AddrOperand → List Byte
  | .zp b | .zpx b | .zpy b | .indx b | .indy b => [b]
  | .abs w | .absx w | .absy w | .ind w => [loByte w, hiByte w]

/-- The operand bytes of a value operand. -/
def ValueOperand.bytes : ValueOperand → List Byte
  | .imm b => [b]
  | .mem m => m.bytes

/-- The operand bytes of a shift operand. -/
def ShiftOperand.bytes : ShiftOperand → List Byte
  | .acc => []
  | .mem m => m.bytes

/-- The bytes an instruction has after its opcode byte, in memory order (R81). -/
def Instr.operand : Instr → List Byte
  | .lda v | .ldx v | .ldy v | .adc v | .sbc v => v.bytes
  | .and v | .ora v | .eor v | .cmp v | .cpx v | .cpy v => v.bytes
  | .sta m | .stx m | .sty m | .inc m | .dec m => m.bytes
  | .asl o | .lsr o | .rol o | .ror o => o.bytes
  | .bpl d | .bmi d | .bvc d | .bvs d | .bcc d | .bcs d | .bne d | .beq d => [d]
  | .jmpAbs w | .jmpInd w | .jsr w => [loByte w, hiByte w]
  | .inx | .iny | .dex | .dey | .rts | .clc | .sec | .cli | .sei | .clv | .cld | .sed | .pha | .pla | .brk => []
  | .invalid _ => []

/-- The opcode byte of an instruction: the invalid byte itself, or the cell of R86. -/
def Instr.opcode : Instr → Option Byte
  | .invalid op => some op
  | i => opcodeByte i.handler i.mode

/-- The bytes of a well-formed instruction; no bytes for a term that no opcode byte selects. -/
def encode (i : Instr) : List Byte :=
  match i.opcode with
  | some op => op :: i.operand
  | none => []

/-! ## The opcode table's numbering -/

/-- The bytes of an instruction whose bits are `w`, numbered as the opcode table numbers them: byte 0 is bits 7..0,
byte 1 bits 15..8, byte 2 bits 23..16; the bits above `nbits` are 0. Three bytes, the longest instruction (R80). -/
def tableBytes (nbits w : Nat) : List Byte :=
  [BitVec.ofNat 8 (w % 2 ^ nbits), BitVec.ofNat 8 (w % 2 ^ nbits / 256), BitVec.ofNat 8 (w % 2 ^ nbits / 65536)]

/-- The instruction the decoder reads from an instruction whose bits are `w`. -/
def decodeTableWord (nbits w : Nat) : Option Instr :=
  match decode (tableBytes nbits w) with
  | .ok (i, _) => some i
  | .error _ => none

end Sys2Proof
end

