-- ==== Sys2Proof/Machine/State.lean ====
section
/-! DEFINITION. The architectural state (spec/10_state.md): exactly four 8-bit registers, a 16-bit program counter,
seven one-bit flags, a 65,536-byte memory and a halt register, and nothing else (R33, R34); its reset values (R35);
and the reasons a step can stop. -/

namespace Sys2Proof.Machine

/-- The seven independent one-bit status flags (R24). No instruction moves them as a byte (R32). -/
structure Flags where
  /-- `f[N]`, negative. -/
  n : Bool
  /-- `f[V]`, overflow. -/
  v : Bool
  /-- `f[B]`, break: written by nothing (R268). -/
  b : Bool
  /-- `f[D]`, decimal: stored but not acted on (R125). -/
  d : Bool
  /-- `f[I]`, interrupt-disable: stored only (R256). -/
  i : Bool
  /-- `f[Z]`, zero. -/
  z : Bool
  /-- `f[C]`, carry. -/
  c : Bool
  deriving DecidableEq, Repr

/-- The reason in the halt register (R30): `none` for the termination instruction, `invalid-opcode` with the address
of the offending opcode byte. -/
inductive HaltReason where
  | none
  | invalidOpcode (addr : Word)
  deriving DecidableEq, Repr

/-- The halt register (R30): Running, or Halted with a reason. -/
inductive Halt where
  | running
  | halted (reason : HaltReason)
  deriving DecidableEq, Repr

/-- What a byte of memory that is not listed reads as: 0x00, the byte of the launch memory outside the image (R35,
R282). DEDUCED (log entry 11); safe. -/
def unlistedByte : Byte := 0x00#8

/-- Memory `M[0..65535]` (R31) as the list of the bytes that differ from `unlistedByte`, by rising address. -/
abbrev Memory := List Host.Cell

/-- Every address of `m` is above `a`, the addresses rise strictly and lie inside the address space, and no entry is
the byte an unlisted address reads as. -/
def Memory.wfAbove : Nat → Memory → Bool
  | _, [] => true
  | low, (k, v) :: m => low ≤ k && k < Config.memorySize && v != unlistedByte && Memory.wfAbove (k + 1) m

/-- The canonical form of a memory. -/
def Memory.wf (m : Memory) : Bool := Memory.wfAbove 0 m

/-- The machine's state: all the spec gives it (R20 to R24, R30, R31), and no field of the model's own. -/
structure State where
  /-- `x[A]`, the accumulator (R20). -/
  a : Byte
  /-- `x[X]`, index register X (R20). -/
  x : Byte
  /-- `x[Y]`, index register Y (R20). -/
  y : Byte
  /-- `x[SP]`, the stack pointer, designating the address 0x0100 + SP (R21). -/
  sp : Byte
  /-- `pc`, the program counter: between steps the address of the next opcode byte (R22). -/
  pc : Word
  /-- The seven flags (R24). -/
  flags : Flags
  /-- The halt register (R30). -/
  halt : Halt
  /-- Memory (R31). -/
  mem : Memory
  deriving DecidableEq, Repr

/-- The machine faults on nothing: every address is readable and writable, no alignment or arithmetic condition is
an error, and the two halting events are next states that write the halt register (R250, R254). So no step raises a
fault, and this type has no constructor. DEDUCED (log entry 12); safe. -/
inductive Fault where
  deriving DecidableEq, Repr

/-- Why the model has no next state to give. -/
inductive Refusal where
  /-- An instruction without a meaning yet, raised by an arm of `exec`; no arm raises it any more. Safe. -/
  | notModelled (mnemonic : String)
  /-- The three bytes at the program counter decode to no instruction, raised by `step`. With the opcode ROM of R88
  that never happens (every byte decodes, R85, and no instruction is longer than three bytes, R80). Safe. -/
  | noInstruction (addr : Word)
  /-- A launch with an image longer than the 65,536 bytes of memory, raised by `launch`: outside the spec, which says
  the model refuses it (R282). Safe. -/
  | imageTooLong (length : Nat)
  deriving DecidableEq, Repr

/-- The flags after reset: all 0 (R35). -/
def Flags.reset : Flags := ⟨false, false, false, false, false, false, false⟩

/-- The state after `Reset()` with the launch memory `m0` (R35, R280). A launch begins with it, and the model has no
state before it (DEDUCED, log entry 13; safe). -/
def State.resetTo (m0 : Memory) : State where
  a := 0x00#8
  x := 0x00#8
  y := 0x00#8
  sp := Config.resetSp
  pc := Config.resetPc
  flags := Flags.reset
  halt := .running
  mem := m0

/-- The machine right after reset, with the launch memory of an empty image: all bytes 0x00, the "zero-filled" case
of R282. DESIGN CHOICE (log entry 3): the spec leaves the image to the host; `State.resetTo` takes any. -/
def State.reset : State := State.resetTo []

end Sys2Proof.Machine
end

