-- ==== Sys2Proof/Machine/Ops.lean ====
section
/-! DEFINITION. The named operations over memory, registers, the instruction stream, the stack and the halt register
that every meaning is written with. -/

namespace Sys2Proof.Machine

/-! ## Memory as a list of cells (R31) -/

/-- The byte at an address: the listed one, or the byte an unlisted address reads as. -/
def Memory.read : Memory → Nat → Byte
  | [], _ => unlistedByte
  | (k, v) :: m, a => if k = a then v else Memory.read m a

/-- The memory without an entry for `a`. -/
def Memory.clear : Memory → Nat → Memory
  | [], _ => []
  | (k, v) :: m, a => if k = a then Memory.clear m a else (k, v) :: Memory.clear m a

/-- The memory with an entry for `a`, put before the first higher address. -/
def Memory.place : Memory → Nat → Byte → Memory
  | [], a, v => [(a, v)]
  | (k, w) :: m, a, v => if a < k then (a, v) :: (k, w) :: m else (k, w) :: Memory.place m a v

/-- The memory after a byte is written: the old entry goes, and the new one is listed unless it is what an unlisted
address reads as. -/
def Memory.write (m : Memory) (a : Nat) (v : Byte) : Memory :=
  if v = unlistedByte then m.clear a else (m.clear a).place a v

/-! ## One home for every register -/

/-- `x[A] <- v`. -/
def State.setA (v : Byte) (s : State) : State := { s with a := v }

/-- `x[X] <- v`. -/
def State.setX (v : Byte) (s : State) : State := { s with x := v }

/-- `x[Y] <- v`. -/
def State.setY (v : Byte) (s : State) : State := { s with y := v }

/-- `x[SP] <- v`. -/
def State.setSp (v : Byte) (s : State) : State := { s with sp := v }

/-- `pc <- t`. -/
def State.setPc (t : Word) (s : State) : State := { s with pc := t }

/-- The flags as a whole; the flag computations of Flags.lean say which of the seven change. -/
def State.setFlags (f : Flags) (s : State) : State := { s with flags := f }

/-- The halt register. -/
def State.setHalt (h : Halt) (s : State) : State := { s with halt := h }

/-- The memory as a whole. -/
def State.setMem (m : Memory) (s : State) : State := { s with mem := m }

/-! ## Memory access (R54): one byte, no side effect on a read (R56), no fault (R59) -/

/-- `MemRead(addr, 1)`. -/
def memRead (s : State) (addr : Word) : Byte := s.mem.read addr.toNat

/-- `MemWrite(addr, 1, v)`. -/
def memWrite (addr : Word) (v : Byte) (s : State) : State := s.setMem (s.mem.write addr.toNat v)

/-- `Read16(a)` (R102): little-endian; the high byte is at `(a + 1) mod 65536`. -/
def read16 (s : State) (addr : Word) : Word := wordOf (memRead s (addr + 1)) (memRead s addr)

/-- `Read16ZP(p)` (R103): little-endian; both bytes lie in page 0, the high byte at `(p + 1) mod 256`. -/
def read16ZP (s : State) (p : Byte) : Word := wordOf (memRead s (zext16 (p + 1))) (memRead s (zext16 p))

/-! ## The instruction stream (R100, R101, R118) -/

/-- `Fetch8()` (R100): the byte at `pc`, and the state with `pc` advanced past it. -/
def fetch8 (s : State) : Byte × State := (memRead s s.pc, s.setPc (s.pc + 1))

/-- `Fetch16()` (R101): two bytes, low byte first. -/
def fetch16 (s : State) : Word × State :=
  let (lo, s1) := fetch8 s
  let (hi, s2) := fetch8 s1
  (wordOf hi lo, s2)

/-- The three bytes at the program counter, the longest instruction (R80), by rising address modulo 65536 (R23).
Reading past a shorter instruction is of no effect (R56). DEDUCED (log entry 5); safe. -/
def fetchBytes (s : State) : List Byte :=
  [memRead s s.pc, memRead s (s.pc + 1), memRead s (s.pc + 2)]

/-- The state after the opcode byte and the operand bytes of a mode have been fetched: `pc` has advanced by
`1 + OperandBytes(mode)` (R118), and nothing else has changed. -/
def fetched (mode : Mode) (s : State) : State := s.setPc (s.pc + BitVec.ofNat 16 (1 + mode.operandBytes))

/-- The instruction that starts at the program counter, or why there is none. -/
def fetchInstr (s : State) : Except DecodeError Instr :=
  match decode (fetchBytes s) with
  | .ok (i, _) => .ok i
  | .error e => .error e

/-! ## The stack-pointer controller (R21, R27, R28) -/

/-- The address the stack pointer value `sp` designates: `0x0100 + sp` (R21). -/
def stackAddr (sp : Byte) : Word := BitVec.ofNat 16 (0x0100 + sp.toNat)

/-- `Push8(v)` (R27): write at the designated address, then decrement modulo 256. -/
def push8 (v : Byte) (s : State) : State := (memWrite (stackAddr s.sp) v s).setSp (s.sp - 1)

/-- `Pop8()` (R28): increment modulo 256, then read at the designated address. -/
def pop8 (s : State) : Byte × State := (memRead s (stackAddr (s.sp + 1)), s.setSp (s.sp + 1))

/-! ## The halting events (R250 to R258): the unit's only exceptions

The entry of a halting event writes the halt register and nothing else: no register is saved, nothing is pushed, no
vector is read (R258). There is no return from one (R260): the only way out of Halted is the host's reset,
`State.resetTo`. -/

/-- `raise`: end the step with the halt register holding `reason` (R251, R252). -/
def raise (reason : HaltReason) (s : State) : State := s.setHalt (.halted reason)

/-- `raise HaltRequest()` (R251). -/
def raiseHaltRequest (s : State) : State := raise .none s

/-- `raise InvalidOpcode(addr)` (R252). -/
def raiseInvalidOpcode (addr : Word) (s : State) : State := raise (.invalidOpcode addr) s

end Sys2Proof.Machine
end

