-- ==== Sys2Proof/Machine/Flags.lean ====
section
/-! DEFINITION. The arithmetic/flag unit (spec/41_alu.md): pure functions of operands and carry-in. Sums are formed
on natural numbers and narrowed at the end (R12). The D flag is an input of none of them (R125). -/

namespace Sys2Proof.Machine

/-- `SetNZ(v)` (R120): N is bit 7 of `v`, Z says whether `v` is 0; no other flag changes. -/
def setNZ (v : Byte) (f : Flags) : Flags := { f with n := v.msb, z := v == 0#8 }

/-- What an addition returns: the result, the carry and the overflow. -/
structure AluResult where
  r : Byte
  c : Bool
  v : Bool
  deriving DecidableEq, Repr

/-- The overflow rule (R121): the operands have equal sign bits and the result's sign bit differs from theirs. -/
def overflow (a b r : Byte) : Bool := a.msb == b.msb && r.msb != a.msb

/-- `Add(a, b, cin)` (R121): 9-bit sum, carry is bit 8. -/
def add (a b : Byte) (cin : Bool) : AluResult :=
  let t := a.toNat + b.toNat + cin.toNat
  let r := BitVec.ofNat 8 t
  { r := r, c := t.testBit 8, v := overflow a b r }

/-- `NegAdd(a, m, cin)` (R123): the negation of `m` is kept to 9 bits, the carry is `t >= 256`, and V is computed on
the low byte of the negated operand. -/
def negAdd (a m : Byte) (cin : Bool) : AluResult :=
  let nm := (m ^^^ 0xFF#8).toNat + 1
  let b := BitVec.ofNat 8 nm
  let t := a.toNat + nm + cin.toNat
  let r := BitVec.ofNat 8 t
  { r := r, c := decide (256 ≤ t), v := overflow a b r }

/-- The four flags an addition or a subtraction writes (R151, R152): C, V, and N and Z from the result. -/
def setCVNZ (res : AluResult) (f : Flags) : Flags := setNZ res.r { f with c := res.c, v := res.v }

/-- `Compare(reg, m)` (R124): the flags of `NegAdd(reg, m, 0)`; the result itself is discarded. -/
def compareFlags (reg m : Byte) (f : Flags) : Flags := setCVNZ (negAdd reg m false) f

/-- The four shifts (R126). -/
inductive ShiftKind where
  | asl | lsr | rol | ror
  deriving DecidableEq, Repr

/-- `Shift(kind, old, cin)` (R126): the new byte and the bit pushed out of the old one. -/
def shift (kind : ShiftKind) (old : Byte) (cin : Bool) : Byte × Bool :=
  match kind with
  | .asl => (BitVec.ofNat 8 (old.toNat * 2 % 256), old.getLsbD 7)
  | .lsr => (BitVec.ofNat 8 (old.toNat / 2), old.getLsbD 0)
  | .rol => (BitVec.ofNat 8 (old.toNat * 2 % 256 + cin.toNat), old.getLsbD 7)
  | .ror => (BitVec.ofNat 8 (old.toNat / 2 + 128 * cin.toNat), old.getLsbD 0)

/-- The three flags a shift writes (R126): C, and N and Z from the new byte. -/
def setShiftFlags (new : Byte) (c : Bool) (f : Flags) : Flags := setNZ new { f with c := c }

/-- Increment modulo 256 (R128). -/
def incByte (v : Byte) : Byte := BitVec.ofNat 8 ((v.toNat + 1) % 256)

/-- Decrement modulo 256 (R128): `v - 1` is `v + 255` modulo 256. -/
def decByte (v : Byte) : Byte := BitVec.ofNat 8 ((v.toNat + 255) % 256)

/-- The status-byte view `P` (R32): N V 1 B D I Z C from bit 7 to bit 0. A view for the host's snapshot; nothing
writes it. -/
def Flags.statusByte (f : Flags) : Byte :=
  BitVec.ofNat 8 (128 * f.n.toNat + 64 * f.v.toNat + 32 + 16 * f.b.toNat + 8 * f.d.toNat + 4 * f.i.toNat
    + 2 * f.z.toNat + f.c.toNat)

end Sys2Proof.Machine
end

