-- ==== Sys2Proof/Machine/Operands.lean ====
section
/-! DEFINITION. The addressing-mode resolver (spec/40_addressing_resolver.md), on operands whose bytes have been
fetched. It writes no register and no flag (R115); the program counter's advance is `fetched` (R118). -/

namespace Sys2Proof.Machine

/-- `(addr + index) mod 65536` (R110, R111, R113): the index is added as an unsigned byte. -/
def indexed (addr : Word) (index : Byte) : Word := addr + zext16 index

/-- `ResolveAddr(mode)` (R115): the effective address by the rule of the mode, R106 to R114. -/
def resolveAddr (m : AddrOperand) (s : State) : Word :=
  match m with
  | .zp b => zext16 b
  | .zpx b => zext16 (b + s.x)
  | .zpy b => zext16 (b + s.y)
  | .abs w => w
  | .absx w => indexed w s.x
  | .absy w => indexed w s.y
  | .indx b => read16ZP s (b + s.x)
  | .indy b => indexed (read16ZP s b) s.y
  | .ind w => read16 s w

/-- `ResolveValue(mode)` (R116): the immediate byte (R105), or the byte at the resolved address. -/
def resolveValue (v : ValueOperand) (s : State) : Byte :=
  match v with
  | .imm b => b
  | .mem m => memRead s (resolveAddr m s)

/-- The old value of a shift or rotate (R170): the accumulator in mode `IMP` (R104), else the byte at the address. -/
def shiftOld (o : ShiftOperand) (s : State) : Byte :=
  match o with
  | .acc => s.a
  | .mem m => memRead s (resolveAddr m s)

/-- Where a shift or rotate writes its new value (R170): back to the accumulator, or to the same address it read
(`s` is the state the operand is resolved in). -/
def shiftWrite (o : ShiftOperand) (s : State) (new : Byte) (t : State) : State :=
  match o with
  | .acc => t.setA new
  | .mem m => memWrite (resolveAddr m s) new t

end Sys2Proof.Machine
end

