-- ==== Sys2Proof/Machine/Arith.lean ====
section
/-! DEFINITION. Add and subtract with carry, increment and decrement (spec/43_arithmetic_incdec.md). -/

namespace Sys2Proof.Machine

/-- ADC and SBC (R150): the accumulator takes the result, and C, V, N and Z are written. `alu` is the ALU's addition
or negate-addition, given the accumulator, the operand's value and the carry. -/
def addSub (alu : Byte → Byte → Bool → AluResult) (src : ValueOperand) (s : State) : State :=
  let res := alu s.a (resolveValue src s) s.flags.c
  ((fetched src.mode s).setA res.r).setFlags (setCVNZ res s.flags)

/-- INC and DEC on memory (R150): one read and one write at the same address, then N and Z of the new byte. -/
def modifyMem (f : Byte → Byte) (dst : AddrOperand) (s : State) : State :=
  let addr := resolveAddr dst s
  let v := f (memRead s addr)
  (memWrite addr v (fetched dst.mode s)).setFlags (setNZ v s.flags)

/-- INX, INY, DEX and DEY (R155 to R158): the register takes the value `v` and N and Z follow it. -/
def stepRegister (setReg : Byte → State → State) (v : Byte) (s : State) : State :=
  (setReg v (fetched .imp s)).setFlags (setNZ v s.flags)

/-- ADC (R151). -/
def execAdc (src : ValueOperand) (s : State) : Host.Outcome State Fault Refusal := .next (addSub add src s)

/-- SBC (R152): `A - M + C`. -/
def execSbc (src : ValueOperand) (s : State) : Host.Outcome State Fault Refusal := .next (addSub negAdd src s)

/-- INC (R153). -/
def execInc (dst : AddrOperand) (s : State) : Host.Outcome State Fault Refusal := .next (modifyMem incByte dst s)

/-- DEC (R154). -/
def execDec (dst : AddrOperand) (s : State) : Host.Outcome State Fault Refusal := .next (modifyMem decByte dst s)

/-- INX (R155). -/
def execInx (s : State) : Host.Outcome State Fault Refusal := .next (stepRegister State.setX (incByte s.x) s)

/-- INY (R156). -/
def execIny (s : State) : Host.Outcome State Fault Refusal := .next (stepRegister State.setY (incByte s.y) s)

/-- DEX (R157). -/
def execDex (s : State) : Host.Outcome State Fault Refusal := .next (stepRegister State.setX (decByte s.x) s)

/-- DEY (R158). -/
def execDey (s : State) : Host.Outcome State Fault Refusal := .next (stepRegister State.setY (decByte s.y) s)

end Sys2Proof.Machine
end

