-- ==== Sys2Proof/Machine/Branch.lean ====
section
/-! DEFINITION. Conditional branches (spec/46_branch.md). -/

namespace Sys2Proof.Machine

/-- A branch (R180): `pc` is past the two bytes; if the condition holds the sign-extended displacement is added to it,
modulo 65536. Nothing else changes. -/
def branch (cond : Bool) (rel8 : Byte) (s : State) : State :=
  let s1 := fetched .rel s
  s1.setPc (if cond then s1.pc + sext16 rel8 else s1.pc)

/-- BPL (R181): taken iff N = 0. -/
def execBpl (rel8 : Byte) (s : State) : Host.Outcome State Fault Refusal := .next (branch (!s.flags.n) rel8 s)

/-- BMI (R182): taken iff N = 1. -/
def execBmi (rel8 : Byte) (s : State) : Host.Outcome State Fault Refusal := .next (branch s.flags.n rel8 s)

/-- BVC (R183): taken iff V = 0. -/
def execBvc (rel8 : Byte) (s : State) : Host.Outcome State Fault Refusal := .next (branch (!s.flags.v) rel8 s)

/-- BVS (R184): taken iff V = 1. -/
def execBvs (rel8 : Byte) (s : State) : Host.Outcome State Fault Refusal := .next (branch s.flags.v rel8 s)

/-- BCC (R185): taken iff C = 0. -/
def execBcc (rel8 : Byte) (s : State) : Host.Outcome State Fault Refusal := .next (branch (!s.flags.c) rel8 s)

/-- BCS (R186): taken iff C = 1. -/
def execBcs (rel8 : Byte) (s : State) : Host.Outcome State Fault Refusal := .next (branch s.flags.c rel8 s)

/-- BNE (R187): taken iff Z = 0. -/
def execBne (rel8 : Byte) (s : State) : Host.Outcome State Fault Refusal := .next (branch (!s.flags.z) rel8 s)

/-- BEQ (R188): taken iff Z = 1. -/
def execBeq (rel8 : Byte) (s : State) : Host.Outcome State Fault Refusal := .next (branch s.flags.z rel8 s)

end Sys2Proof.Machine
end

