-- ==== Sys2Proof/Machine/FlagStack.lean ====
section
/-! DEFINITION. Flag, stack and termination instructions, and the invalid-opcode handler
(spec/48_flag_stack_halt.md). -/

namespace Sys2Proof.Machine

/-- A flag instruction (R200): the flags become `f`, and `pc` moves past the one byte. -/
def flagOp (f : Flags) (s : State) : State := (fetched .imp s).setFlags f

/-- CLC (R201). -/
def execClc (s : State) : Host.Outcome State Fault Refusal := .next (flagOp { s.flags with c := false } s)

/-- SEC (R202). -/
def execSec (s : State) : Host.Outcome State Fault Refusal := .next (flagOp { s.flags with c := true } s)

/-- CLI (R203). -/
def execCli (s : State) : Host.Outcome State Fault Refusal := .next (flagOp { s.flags with i := false } s)

/-- SEI (R204). -/
def execSei (s : State) : Host.Outcome State Fault Refusal := .next (flagOp { s.flags with i := true } s)

/-- CLV (R205). -/
def execClv (s : State) : Host.Outcome State Fault Refusal := .next (flagOp { s.flags with v := false } s)

/-- CLD (R206). -/
def execCld (s : State) : Host.Outcome State Fault Refusal := .next (flagOp { s.flags with d := false } s)

/-- SED (R207). -/
def execSed (s : State) : Host.Outcome State Fault Refusal := .next (flagOp { s.flags with d := true } s)

/-- PHA (R208): `Push8(A)`. -/
def execPha (s : State) : Host.Outcome State Fault Refusal := .next (push8 s.a (fetched .imp s))

/-- PLA (R209): `A <- Pop8()`, then N and Z of the popped byte. -/
def execPla (s : State) : Host.Outcome State Fault Refusal :=
  let (v, s1) := pop8 (fetched .imp s)
  .next ((s1.setA v).setFlags (setNZ v s.flags))

/-- BRK (R210): `raise HaltRequest()`; `pc` is at `A0 + 1`. -/
def execBrk (s : State) : Host.Outcome State Fault Refusal := .next (raiseHaltRequest (fetched .imp s))

/-- The invalid-opcode handler (R211): `raise InvalidOpcode(A0)`; `pc` is at `A0 + 1`. Which of the 117 bytes it was
makes no difference. -/
def execInvalid (_opcode : Byte) (s : State) : Host.Outcome State Fault Refusal :=
  .next (raiseInvalidOpcode s.pc (fetched .inv s))

end Sys2Proof.Machine
end

