-- ==== Sys2Proof/Machine/Jump.lean ====
section
/-! DEFINITION. Jump, subroutine call and return (spec/47_jump_call_return.md). -/

namespace Sys2Proof.Machine

/-- JMP absolute (R190): `pc <- ResolveAddr(ABS)`. -/
def execJmpAbs (abs16 : Word) (s : State) : Host.Outcome State Fault Refusal :=
  .next ((fetched .abs s).setPc (resolveAddr (.abs abs16) s))

/-- JMP indirect (R191): `pc <- ResolveAddr(IND)`; the pointer's high byte is at `(ptr + 1) mod 65536`. -/
def execJmpInd (ptr16 : Word) (s : State) : Host.Outcome State Fault Refusal :=
  .next ((fetched .ind s).setPc (resolveAddr (.ind ptr16) s))

/-- JSR (R192): push the high byte and then the low byte of the address after the instruction, then jump. The target
was read before the pushes (R55). -/
def execJsr (abs16 : Word) (s : State) : Host.Outcome State Fault Refusal :=
  let s1 := fetched .abs s
  .next ((push8 (loByte s1.pc) (push8 (hiByte s1.pc) s1)).setPc (resolveAddr (.abs abs16) s))

/-- RTS (R193): pop the low byte, then the high byte, and continue at the word they form. -/
def execRts (s : State) : Host.Outcome State Fault Refusal :=
  let (lo, s1) := pop8 (fetched .imp s)
  let (hi, s2) := pop8 s1
  .next (s2.setPc (wordOf hi lo))

end Sys2Proof.Machine
end

