-- ==== Sys2Proof/Machine/LoadStore.lean ====
section
/-! DEFINITION. Load and store (spec/42_load_store.md). In every meaning of the machine `s` is the state in which the
step began, so `s.pc` is `A0`, the address of the opcode byte; `fetched mode s` is the state after the instruction's
bytes have been read. -/

namespace Sys2Proof.Machine

/-- A load (R140): the register is written with the operand's value and N and Z follow it. -/
def load (setReg : Byte → State → State) (src : ValueOperand) (s : State) : State :=
  let v := resolveValue src s
  (setReg v (fetched src.mode s)).setFlags (setNZ v s.flags)

/-- A store (R140): the byte is written at the operand's address; no register and no flag changes. -/
def store (v : Byte) (dst : AddrOperand) (s : State) : State :=
  memWrite (resolveAddr dst s) v (fetched dst.mode s)

/-- LDA (R141). -/
def execLda (src : ValueOperand) (s : State) : Host.Outcome State Fault Refusal := .next (load State.setA src s)

/-- LDX (R142). -/
def execLdx (src : ValueOperand) (s : State) : Host.Outcome State Fault Refusal := .next (load State.setX src s)

/-- LDY (R143). -/
def execLdy (src : ValueOperand) (s : State) : Host.Outcome State Fault Refusal := .next (load State.setY src s)

/-- STA (R144). -/
def execSta (dst : AddrOperand) (s : State) : Host.Outcome State Fault Refusal := .next (store s.a dst s)

/-- STX (R145). -/
def execStx (dst : AddrOperand) (s : State) : Host.Outcome State Fault Refusal := .next (store s.x dst s)

/-- STY (R146). -/
def execSty (dst : AddrOperand) (s : State) : Host.Outcome State Fault Refusal := .next (store s.y dst s)

end Sys2Proof.Machine
end

