-- ==== Sys2Proof/Machine/Logic.lean ====
section
/-! DEFINITION. Logical and compare instructions (spec/44_logical_compare.md). -/

namespace Sys2Proof.Machine

/-- AND, ORA and EOR (R160): the accumulator takes `op A M`, N and Z follow it, C and V stay. -/
def logical (op : Byte → Byte → Byte) (src : ValueOperand) (s : State) : State :=
  let r := op s.a (resolveValue src s)
  ((fetched src.mode s).setA r).setFlags (setNZ r s.flags)

/-- CMP, CPX and CPY (R160): no register changes; N, Z, C and V are those of `Compare(reg, M)`. -/
def compareReg (reg : Byte) (src : ValueOperand) (s : State) : State :=
  (fetched src.mode s).setFlags (compareFlags reg (resolveValue src s) s.flags)

/-- AND (R161). -/
def execAnd (src : ValueOperand) (s : State) : Host.Outcome State Fault Refusal :=
  .next (logical (fun a m => a &&& m) src s)

/-- ORA (R162). -/
def execOra (src : ValueOperand) (s : State) : Host.Outcome State Fault Refusal :=
  .next (logical (fun a m => a ||| m) src s)

/-- EOR (R163). -/
def execEor (src : ValueOperand) (s : State) : Host.Outcome State Fault Refusal :=
  .next (logical (fun a m => a ^^^ m) src s)

/-- CMP (R164). -/
def execCmp (src : ValueOperand) (s : State) : Host.Outcome State Fault Refusal := .next (compareReg s.a src s)

/-- CPX (R165). -/
def execCpx (src : ValueOperand) (s : State) : Host.Outcome State Fault Refusal := .next (compareReg s.x src s)

/-- CPY (R166). -/
def execCpy (src : ValueOperand) (s : State) : Host.Outcome State Fault Refusal := .next (compareReg s.y src s)

end Sys2Proof.Machine
end

