-- ==== Sys2Proof/Machine/Shift.lean ====
section
/-! DEFINITION. Shift and rotate (spec/45_shift_rotate.md). -/

namespace Sys2Proof.Machine

/-- The family's common effect (R170): one read, the shift by one bit, one write to the same place, then C, N and Z.
V stays. -/
def shiftRotate (kind : ShiftKind) (dst : ShiftOperand) (s : State) : State :=
  let (new, c) := shift kind (shiftOld dst s) s.flags.c
  (shiftWrite dst s new (fetched dst.mode s)).setFlags (setShiftFlags new c s.flags)

/-- ASL (R171). -/
def execAsl (dst : ShiftOperand) (s : State) : Host.Outcome State Fault Refusal := .next (shiftRotate .asl dst s)

/-- LSR (R172). -/
def execLsr (dst : ShiftOperand) (s : State) : Host.Outcome State Fault Refusal := .next (shiftRotate .lsr dst s)

/-- ROL (R173). -/
def execRol (dst : ShiftOperand) (s : State) : Host.Outcome State Fault Refusal := .next (shiftRotate .rol dst s)

/-- ROR (R174). -/
def execRor (dst : ShiftOperand) (s : State) : Host.Outcome State Fault Refusal := .next (shiftRotate .ror dst s)

end Sys2Proof.Machine
end

