-- ==== Sys2Proof/Machine/Step.lean ====
section
/-! DEFINITION. The step of the execution loop (spec/49_fetch_dispatch_disassembler.md R221) and the placing of an
instruction where the step fetches it. -/

namespace Sys2Proof.Machine

/-- `Step()` (R221): nothing when Halted (R226; log entry 6); else the instruction whose bytes stand at the program counter is
executed. The refusal is never reached: every byte decodes (R85, R91). -/
def step (s : State) : Host.Outcome State Fault Refusal :=
  match s.halt with
  | .halted _ => .next s
  | .running =>
    match fetchInstr s with
    | .ok i => exec i s
    | .error _ => .refused (.noInstruction s.pc)

/-- The state with the instruction whose bits are `w` (numbered as the opcode table numbers them) at the program
counter, and Running, since a Halted unit fetches nothing (log entry 4). -/
def State.withFetchWord (s : State) (nbits w : Nat) : State :=
  match tableBytes nbits w with
  | [b0, b1, b2] =>
    (memWrite (s.pc + 2) b2 (memWrite (s.pc + 1) b1 (memWrite s.pc b0 s))).setHalt .running
  | _ => s

end Sys2Proof.Machine
end

