-- ==== Sys2Proof/Machine/Disasm.lean ====
section
/-! DEFINITION. The disassembler (spec/49_fetch_dispatch_disassembler.md R227 to R233): a pure function of memory, a
start address and a length, through the same opcode ROM and the same lengths as execution (R245). -/

namespace Sys2Proof.Machine

/-! ## Hexadecimal -/

/-- The hexadecimal digit of a value below 16, in the case `HEX_UPPER` selects (R231). -/
def hexDigit (n : Nat) : Char :=
  let lower := ['0', '1', '2', '3', '4', '5', '6', '7', '8', '9', 'a', 'b', 'c', 'd', 'e', 'f']
  let upper := ['0', '1', '2', '3', '4', '5', '6', '7', '8', '9', 'A', 'B', 'C', 'D', 'E', 'F']
  (if Config.hexUpper then upper else lower).getD n '0'

/-- `hh(v)`: two hexadecimal digits. -/
def hexByte (v : Byte) : String := String.ofList [hexDigit (v.toNat / 16), hexDigit (v.toNat % 16)]

/-- `hhhh(w)`: four hexadecimal digits. -/
def hexWord (w : Word) : String := hexByte (hiByte w) ++ hexByte (loByte w)

/-! ## Lines (R230, R231) -/

/-- A line: the instruction's address, the bytes it occupies in memory order, its mnemonic and its operand string
(R230). -/
structure Line where
  address : Word
  bytes : List Byte
  mnemonic : String
  operand : String
  deriving DecidableEq, Repr

/-- The target a branch line shows: `(a + 2 + signed(b1)) mod 65536` (R231, R84). -/
def branchTarget (a : Word) (rel8 : Byte) : Word := a + 2 + sext16 rel8

/-- `OperandString(mode, a, bytes)` (R231), with `b1` and `b2` the operand bytes. It shows the encoded operand, not
the effective address. -/
def operandString (mode : Mode) (a : Word) (b1 b2 : Byte) : String :=
  match mode with
  | .imp | .inv => ""
  | .imm => "#$" ++ hexByte b1
  | .zp => "$" ++ hexByte b1
  | .zpx => "$" ++ hexByte b1 ++ ", X"
  | .zpy => "$" ++ hexByte b1 ++ ", Y"
  | .abs => "$" ++ hexWord (wordOf b2 b1)
  | .absx => "$" ++ hexWord (wordOf b2 b1) ++ ", X"
  | .absy => "$" ++ hexWord (wordOf b2 b1) ++ ", Y"
  | .indx => "($" ++ hexByte b1 ++ ", X)"
  | .indy => "($" ++ hexByte b1 ++ "), Y"
  | .ind => "($" ++ hexWord (wordOf b2 b1) ++ ")"
  | .rel => "$" ++ hexWord (branchTarget a b1)

/-- The byte of a memory at a 16-bit address. -/
def byteAt (m : Memory) (a : Word) : Byte := m.read a.toNat

/-- The bytes of the instruction at `a`: the opcode and as many as its mode has (R229), addresses modulo 65536. -/
def instrBytes (m : Memory) (a : Word) : List Byte :=
  [byteAt m a, byteAt m (a + 1), byteAt m (a + 2)].take (1 + (oprom (byteAt m a)).mode.operandBytes)

/-- The line of the instruction that starts at `a` (R229). An invalid byte is a line of one byte, `???` with an empty
operand (R233). -/
def lineAt (m : Memory) (a : Word) : Line where
  address := a
  bytes := instrBytes m a
  mnemonic := (oprom (byteAt m a)).mnemonic
  operand := operandString (oprom (byteAt m a)).mode a (byteAt m (a + 1)) (byteAt m (a + 2))

/-! ## The walk (R229) -/

/-- The loop of R229 from offset `off`: a line for every instruction that starts below `length`. The first argument
bounds the number of lines; every line advances by at least one byte, so `length` lines are enough. -/
def disasmFrom (m : Memory) (start : Word) (length : Nat) : Nat → Nat → List Line
  | 0, _ => []
  | k + 1, off =>
    if off < length then
      let a := start + BitVec.ofNat 16 off
      lineAt m a :: disasmFrom m start length k (off + 1 + (oprom (byteAt m a)).mode.operandBytes)
    else []

/-- `Disassemble(start, length)` (R227 to R229). -/
def disassemble (m : Memory) (start : Word) (length : Nat) : List Line := disasmFrom m start length length 0

/-! ## The text of a line (R232) -/

/-- The bytes of a line as text: two digits each, separated by single spaces. -/
def bytesText : List Byte → List Char
  | [] => []
  | [b] => (hexByte b).toList
  | b :: bs => (hexByte b).toList ++ ' ' :: bytesText bs

/-- The bytes field, padded with spaces on the right to eight characters. -/
def bytesField (bs : List Byte) : String :=
  String.ofList (bytesText bs ++ List.replicate (8 - (bytesText bs).length) ' ')

/-- The text rendering of a line (R232): address, two spaces, bytes field, two spaces, mnemonic, and a space and the
operand string where that is not empty. -/
def Line.text (l : Line) : String :=
  hexWord l.address ++ "  " ++ bytesField l.bytes ++ "  " ++ l.mnemonic ++
    (if l.operand = "" then "" else " " ++ l.operand)

end Sys2Proof.Machine
end

