-- ==== Sys2Proof/Machine/HostOps.lean ====
section
/-! DEFINITION. The seven operations the unit offers its host (spec/49_fetch_dispatch_disassembler.md R236 to R244),
the two entry points of the execution loop (R224, R225), and the launch (spec/70_reset_and_hazards.md R282). One
action at a time is all the type can say (R244; log entry 7). -/

namespace Sys2Proof.Machine

/-! ## The launch memory (R282) -/

/-- The memory with the bytes of an image from address `a` upward, over `m`. -/
def loadBytes : List Byte → Nat → Memory → Memory
  | [], _, m => m
  | b :: bs, a, m => loadBytes bs (a + 1) (m.write a b)

/-- `M0` of an image: its bytes from address 0, 0x00 everywhere else (R282). -/
def launchMemory (image : List Byte) : Memory := loadBytes image 0 []

/-- A launch with an image (R281, R282): the state after reset with its launch memory; an image longer than memory
is refused. -/
def launch (image : List Byte) : Host.Outcome State Fault Refusal :=
  if image.length ≤ Config.memorySize then .next (State.resetTo (launchMemory image))
  else .refused (.imageTooLong image.length)

/-! ## The entry points of the execution loop (R224, R225) -/

/-- `SingleStep()` (R225): one iteration of the loop. -/
def singleStep (s : State) : Host.Outcome State Fault Refusal := step s

/-- `Run()` (R224) under fuel (DESIGN CHOICE, log entry 9; safe): steps until the halt register is not Running, and at most `fuel` of them; a run that
used up its fuel ends in a state that is still Running. -/
def run : Nat → State → Host.Outcome State Fault Refusal
  | 0, s => .next s
  | k + 1, s =>
    match s.halt with
    | .halted _ => .next s
    | .running =>
      match step s with
      | .next t => run k t
      | .fault r => .fault r
      | .refused r => .refused r

/-! ## Snapshot (R242) -/

/-- What `Snapshot()` returns: the four registers, the program counter, the seven flags and the halt register. The
status byte `P` (R32) is `flags.statusByte`. -/
structure Snapshot where
  a : Byte
  x : Byte
  y : Byte
  sp : Byte
  pc : Word
  flags : Flags
  halt : Halt
  deriving DecidableEq, Repr

/-- The snapshot of a state (R242). -/
def snapshot (s : State) : Snapshot := ⟨s.a, s.x, s.y, s.sp, s.pc, s.flags, s.halt⟩

/-- The numeric code of a halt reason (R253). -/
def HaltReason.code : HaltReason → Nat
  | .none => 0
  | .invalidOpcode _ => 1

/-! ## The operations (R236) -/

/-- What the host can ask of the unit. -/
inductive HostAction where
  /-- `Reset()` (R237). -/
  | reset
  /-- `Run()` (R238), under fuel. -/
  | run (fuel : Nat)
  /-- `SingleStep()` (R239). -/
  | singleStep
  /-- `ReadByte(addr)` (R240). -/
  | readByte (addr : Word)
  /-- `WriteByte(addr, v)` (R241). -/
  | writeByte (addr : Word) (v : Byte)
  /-- `Snapshot()` (R242). -/
  | snapshot
  /-- `Disassemble(start, length)` (R243), with a length of 0 to 65,536 (R227). -/
  | disassemble (start : Word) (length : Fin 65537)
  deriving DecidableEq, Repr

/-- What the unit answers. -/
inductive HostReply where
  /-- The operation returns no value. -/
  | done
  /-- The run stopped: the unit is Halted for this reason (R269). -/
  | stopped (reason : HaltReason)
  /-- The run used up its fuel and the unit is still Running; neither halt reason. DESIGN CHOICE (log entry 9 for the
  reply, log entry 14 for what may follow it). -/
  | outOfFuel
  /-- The byte read. -/
  | byte (v : Byte)
  /-- The snapshot. -/
  | values (snap : Snapshot)
  /-- The disassembly. -/
  | lines (ls : List Line)
  deriving DecidableEq, Repr

/-- How a run ended, from the halt register it left. -/
def runReply : Halt → HostReply
  | .halted reason => .stopped reason
  | .running => .outOfFuel

/-- A state outcome with a reply that is a function of the state. -/
def withReply (reply : State → HostReply) :
    Host.Outcome State Fault Refusal → Host.Outcome (HostReply × State) Fault Refusal
  | .next s => .next (reply s, s)
  | .fault r => .fault r
  | .refused r => .refused r

/-- One host operation, as one indivisible transaction on the state (R236), with the launch memory `m0` that reset
returns to (R280). -/
def perform (m0 : Memory) (act : HostAction) (s : State) : Host.Outcome (HostReply × State) Fault Refusal :=
  match act with
  | .reset => .next (.done, State.resetTo m0)
  | .run fuel => withReply (fun t => runReply t.halt) (run fuel s)
  | .singleStep => withReply (fun _ => .done) (singleStep s)
  | .readByte addr => .next (.byte (memRead s addr), s)
  | .writeByte addr v => .next (.done, memWrite addr v s)
  | .snapshot => .next (.values (snapshot s), s)
  | .disassemble start length => .next (.lines (disassemble s.mem start length.val), s)

/-- The `WriteByte` operations with which a loader installs an image from address `a` upward (R241, R282). -/
def loaderWrites : List Byte → Nat → List HostAction
  | [], _ => []
  | b :: bs, a => .writeByte (BitVec.ofNat 16 a) b :: loaderWrites bs (a + 1)

/-- A sequence of host operations, one after the other (R244), with the replies in order. A run that used up its fuel
while the unit is still Running counts as returned, and the next action is performed on the state it reached; the spec
has no rule for what may follow such a run, since nothing stops a `Run()` (R224) and no other operation may be
issued while it is in progress (R244). DESIGN CHOICE (log entry 14); unsafe where the sequence is read as one of
`Run()` itself, safe where it is read as single steps (R225). -/
def performAll (m0 : Memory) : List HostAction → State → Host.Outcome (List HostReply × State) Fault Refusal
  | [], s => .next ([], s)
  | act :: acts, s =>
    match perform m0 act s with
    | .next (reply, t) =>
      match performAll m0 acts t with
      | .next (replies, u) => .next (reply :: replies, u)
      | .fault r => .fault r
      | .refused r => .refused r
    | .fault r => .fault r
    | .refused r => .refused r

end Sys2Proof.Machine
end

