-- ==== Sys2Proof/Safety.lean ====
section
/-! DEFINITION. What holds of every state a run can be in, and the terms the statements are written in. -/

namespace Sys2Proof.Machine

/-- The address whose byte made the halt register what it is, is named truthfully: after `Halted(none)` the byte
before the program counter is the halt opcode (R210, R251), and after `Halted(invalid-opcode, addr)` the program
counter is `addr + 1` and the byte at `addr` is one of the 117 (R211, R252). -/
def HaltTruthful (s : State) : Prop :=
  match s.halt with
  | .running => True
  | .halted .none => memRead s (s.pc - 1) = Config.haltOpcode
  | .halted (.invalidOpcode addr) => s.pc = addr + 1 ∧ memRead s addr ∈ invalidBytes

/-- The invariant of the machine's own steps: memory is in its canonical form; N and Z are never both set, since they
are always written from one byte (R25, R120); B holds 0 (R268); and the halt register is truthful. (A host's
`WriteByte` may change the byte a halt came from, so the last part is kept by steps, not by host writes.) -/
structure Inv (s : State) : Prop where
  memWf : s.mem.wf = true
  notNegativeZero : ¬(s.flags.n = true ∧ s.flags.z = true)
  breakClear : s.flags.b = false
  haltTruthful : HaltTruthful s

/-! ## The terms of the statements about instructions -/

/-- N and Z follow the byte `v`: N is its bit 7, Z says that it is 0 (R25, R120). -/
def NZFollow (v : Byte) (f : Flags) : Prop := (f.n = true ↔ 128 ≤ v.toNat) ∧ (f.z = true ↔ v.toNat = 0)

/-- The program counter has moved past the instruction: `pc = (A0 + Length) mod 65536` (R23). -/
def PcPast (i : Instr) (s t : State) : Prop := t.pc.toNat = (s.pc.toNat + i.length) % 65536

/-- The byte at `addr` is `v` in `t`, and every other byte of memory reads in `t` as it does in `s`. -/
def StoredOnly (addr : Word) (v : Byte) (s t : State) : Prop :=
  memRead t addr = v ∧ ∀ b : Word, b ≠ addr → memRead t b = memRead s b

/-- The cell a shift or rotate stores: none in the accumulator form, else the new byte at the operand's address
(R170). -/
def shiftStoredCells (kind : ShiftKind) (o : ShiftOperand) (s : State) : List (Word × Byte) :=
  match o with
  | .acc => []
  | .mem m => [(resolveAddr m s, (shift kind (memRead s (resolveAddr m s)) s.flags.c).1)]

/-- The cells an instruction stores, each an address and the byte put there, computed as its meaning computes them;
none for an instruction that stores nothing. JSR's two cells are its two pushes, the high byte of `A0 + 3` first
(R192). -/
def storedCells (i : Instr) (s : State) : List (Word × Byte) :=
  match i with
  | .sta m => [(resolveAddr m s, s.a)]
  | .stx m => [(resolveAddr m s, s.x)]
  | .sty m => [(resolveAddr m s, s.y)]
  | .inc m => [(resolveAddr m s, incByte (memRead s (resolveAddr m s)))]
  | .dec m => [(resolveAddr m s, decByte (memRead s (resolveAddr m s)))]
  | .asl o => shiftStoredCells .asl o s
  | .lsr o => shiftStoredCells .lsr o s
  | .rol o => shiftStoredCells .rol o s
  | .ror o => shiftStoredCells .ror o s
  | .jsr _ => [(stackAddr s.sp, hiByte (s.pc + 3)), (stackAddr (s.sp - 1), loByte (s.pc + 3))]
  | .pha => [(stackAddr s.sp, s.a)]
  | .lda _ | .ldx _ | .ldy _ | .adc _ | .sbc _ | .inx | .iny | .dex | .dey => []
  | .and _ | .ora _ | .eor _ | .cmp _ | .cpx _ | .cpy _ => []
  | .bpl _ | .bmi _ | .bvc _ | .bvs _ | .bcc _ | .bcs _ | .bne _ | .beq _ => []
  | .jmpAbs _ | .jmpInd _ | .rts => []
  | .clc | .sec | .cli | .sei | .clv | .cld | .sed | .pla | .brk | .invalid _ => []

/-- The addresses an instruction stores to. -/
def storedAddrs (i : Instr) (s : State) : List Word := (storedCells i s).map Prod.fst

/-- The instruction `i` is a branch on `cond` with the displacement byte `rel8` (R180): it changes the program counter
alone, to `(A0 + 2 + signed(rel8)) mod 65536` where the condition holds and to `(A0 + 2) mod 65536` where it does
not. -/
def BranchesOn (i : Instr) (cond : Bool) (rel8 : Byte) (s : State) : Prop :=
  ∃ t, exec i s = .next t ∧ t = { s with pc := t.pc } ∧
    (t.pc.toNat : Int) = (s.pc.toNat + 2 + (if cond then rel8.toInt else 0)) % 65536

/-- The old value a shift or rotate works on is `old` (R170): the accumulator's in the accumulator form, else the byte
at the operand's address. -/
def ShiftReads (o : ShiftOperand) (s : State) (old : Byte) : Prop :=
  match o with
  | .acc => old = s.a
  | .mem m => old = memRead s (resolveAddr m s)

/-- A shift or rotate has put `new` where its operand was (R170), written C, N and Z and moved past its bytes, and
changed nothing else. -/
def ShiftedTo (o : ShiftOperand) (new : Byte) (s t : State) : Prop :=
  NZFollow new t.flags ∧
  match o with
  | .acc => t = { s with a := new, pc := t.pc, flags := { s.flags with n := t.flags.n, z := t.flags.z, c := t.flags.c } }
  | .mem m => StoredOnly (resolveAddr m s) new s t ∧
      t = { s with pc := t.pc, mem := t.mem, flags := { s.flags with n := t.flags.n, z := t.flags.z, c := t.flags.c } }

/-- Two states that agree on everything but the flags B, D and I. -/
def SameButIdleFlags (s t : State) : Prop :=
  t = { s with flags := { s.flags with b := t.flags.b, d := t.flags.d, i := t.flags.i } }

/-! ## How a run ends -/

/-- A run has ended, the normal way or with the error diagnostic (R269). -/
def Ended (s : State) : Prop := s.halt ≠ .running

/-- A run has ended by the program's own request, `Halted(none)`: "a normal program-requested stop, not an error"
(R251). -/
def EndedNormally (s : State) : Prop := s.halt = .halted .none

end Sys2Proof.Machine
end

