-- ==== Sys2Proof/Certificates/Slice0/Obligations.lean ====
section
/-! DEFINITION. The statements for the provers. Each docstring names the rule of spec/ it formalises. In every
statement about an instruction the state `s` is the one the step began in, so `s.pc` is `A0` of the rules. -/

open Sys2Proof Sys2Proof.Machine

/-- Byte sequences written out from the opcode map, at least one for every family of instructions and one for every
addressing mode, decode to the instruction they stand for, with no byte left over. (R86, R88, R81, R83) -/
def Obligations.SpecWordsDecode : Prop :=
  decode [0xA9#8, 0x24#8] = .ok (.lda (.imm 0x24#8), []) ∧
  decode [0xB6#8, 0xFF#8] = .ok (.ldx (.mem (.zpy 0xFF#8)), []) ∧
  decode [0x8D#8, 0x34#8, 0x12#8] = .ok (.sta (.abs 0x1234#16), []) ∧
  decode [0x91#8, 0x36#8] = .ok (.sta (.indy 0x36#8), []) ∧
  decode [0x61#8, 0x10#8] = .ok (.adc (.mem (.indx 0x10#8)), []) ∧
  decode [0xF6#8, 0x10#8] = .ok (.inc (.zpx 0x10#8), []) ∧
  decode [0x88#8] = .ok (.dey, []) ∧
  decode [0x39#8, 0x00#8, 0x10#8] = .ok (.and (.mem (.absy 0x1000#16)), []) ∧
  decode [0xE4#8, 0x10#8] = .ok (.cpx (.mem (.zp 0x10#8)), []) ∧
  decode [0x6A#8] = .ok (.ror .acc, []) ∧
  decode [0x1E#8, 0x00#8, 0x10#8] = .ok (.asl (.mem (.absx 0x1000#16)), []) ∧
  decode [0xD0#8, 0xF8#8] = .ok (.bne 0xF8#8, []) ∧
  decode [0x6C#8, 0x38#8, 0x00#8] = .ok (.jmpInd 0x0038#16, []) ∧
  decode [0x20#8, 0x30#8, 0x00#8] = .ok (.jsr 0x0030#16, []) ∧
  decode [0x78#8] = .ok (.sei, []) ∧
  decode [0x48#8] = .ok (.pha, []) ∧
  decode [0x00#8] = .ok (.brk, []) ∧
  decode [0xEA#8] = .ok (.invalid 0xEA#8, [])

/-- For every well-formed instruction, with every operand at every value, decoding its encoding followed by any further
bytes gives the instruction and leaves exactly those further bytes. (R85, R86, R88, R81) -/
def Obligations.DecodeOfEncodeIsTheInstruction : Prop :=
  ∀ (i : Instr) (rest : List Byte), i.wellFormed = true → decode (encode i ++ rest) = .ok (i, rest)

/-- If a list of bytes decodes to an instruction with some bytes left over, the instruction is well formed and its
encoding followed by those bytes is the list: no bit is dropped and no two encodings share a meaning. (R85, R86,
R88, R90, R91) -/
def Obligations.EncodeOfDecodeIsTheBytes : Prop :=
  ∀ (bytes : List Byte) (i : Instr) (rest : List Byte),
    decode bytes = .ok (i, rest) → i.wellFormed = true ∧ encode i ++ rest = bytes

/-- Whatever three bytes are given, the decoder reads an instruction from them; so each of the 256 opcode bytes has a
meaning and no operand byte value is reserved. (R85, R91) -/
def Obligations.EveryOpcodeByteDecodes : Prop :=
  ∀ op b1 b2 : Byte, ∃ i rest, decode [op, b1, b2] = .ok (i, rest)

/-- There are 117 listed invalid bytes, all different; a byte is one of them exactly when the map by mnemonic and mode
gives it to no pair. A byte's ROM entry is the invalid-opcode sentinel (mode INV, mnemonic ???) exactly when it is
one of them; and executing one halts the unit with reason invalid-opcode and the address of the byte. (R90) -/
def Obligations.InvalidBytesAreTheListed117 : Prop :=
  invalidBytes.length = 117 ∧ invalidBytes.Nodup ∧
  (∀ op : Byte, op ∈ invalidBytes ↔ ∀ (h : Handler) (m : Mode), opcodeByte h m ≠ some op) ∧
  (∀ op : Byte, op ∈ invalidBytes ↔ oprom op = ⟨.invalid, .inv⟩) ∧
  (∀ op : Byte, op ∈ invalidBytes ↔ (oprom op).mnemonic = "???") ∧
  ∀ s : State, s.halt = .running → memRead s s.pc ∈ invalidBytes →
    ∃ t, step s = .next t ∧ t.halt = .halted (.invalidOpcode s.pc)

/-- For the instruction at the program counter, the disassembler's line there holds exactly Length(opcode) bytes (1 for
an invalid opcode), those bytes decode to that instruction alone, and executing an instruction other than a branch,
jump, call or return moves the program counter by that length. (R245, R89, R80) -/
def Obligations.ExecutionAndDisassemblyReadTheSameBytes : Prop :=
  ∀ (s : State) (i : Instr), fetchInstr s = .ok i →
    (lineAt s.mem s.pc).bytes.length = 1 + (oprom (memRead s s.pc)).mode.operandBytes ∧
    i.length = 1 + (oprom (memRead s s.pc)).mode.operandBytes ∧
    decode (lineAt s.mem s.pc).bytes = .ok (i, []) ∧
    (i.mode ≠ .rel → i.handler ∉ [.jmpAbs, .jmpInd, .jsr, .rts] →
      ∃ t, exec i s = .next t ∧ PcPast i s t)

/-- For the instruction at the program counter: Fetch8 gives its opcode byte; then, by the mode of that byte's ROM
entry, no further fetch, one Fetch8 or one Fetch16 (low byte first) gives its operand bytes; and the state those
fetches leave is the state the instruction's effect starts from, with pc past the instruction. (R100, R101, R118,
R221, R55) -/
def Obligations.FetchTakesOpcodeThenOperandBytesInOrder : Prop :=
  ∀ (s : State) (i : Instr), fetchInstr s = .ok i →
    (fetch8 s).1 = memRead s s.pc ∧ (fetch8 s).2 = { s with pc := s.pc + 1 } ∧
    ((oprom (fetch8 s).1).mode.operandBytes = 0 →
      encode i = [(fetch8 s).1] ∧ fetched i.mode s = (fetch8 s).2) ∧
    ((oprom (fetch8 s).1).mode.operandBytes = 1 →
      encode i = [(fetch8 s).1, (fetch8 (fetch8 s).2).1] ∧ fetched i.mode s = (fetch8 (fetch8 s).2).2) ∧
    ((oprom (fetch8 s).1).mode.operandBytes = 2 →
      encode i = [(fetch8 s).1, loByte (fetch16 (fetch8 s).2).1, hiByte (fetch16 (fetch8 s).2).1] ∧
      fetched i.mode s = (fetch16 (fetch8 s).2).2)

/-- When the unit is Running and the bytes at the program counter decode to an instruction i, the step is exec of i at
that very state; nothing else is done around it. (R221, R222) -/
def Obligations.StepRunsTheDecodedInstruction : Prop :=
  ∀ (s : State) (i : Instr) (rest : List Byte), s.halt = .running →
    decode [memRead s s.pc, memRead s (s.pc + 1), memRead s (s.pc + 2)] = .ok (i, rest) → step s = exec i s

/-- In a Halted state the step answers the same state, so do the single-step entry point and a run with any fuel; and
every host operation other than the reset answers and leaves the halt register as it is. (R226) -/
def Obligations.HaltedStepChangesNothing : Prop :=
  ∀ (s : State) (reason : HaltReason) (fuel : Nat), s.halt = .halted reason →
    step s = .next s ∧ singleStep s = .next s ∧ run fuel s = .next s ∧
    ∀ (m0 : Memory) (act : HostAction), act ≠ .reset →
      ∃ reply t, perform m0 act s = .next (reply, t) ∧ t.halt = .halted reason

/-- From every state, Running or Halted, with any memory, the step answers a next state: no fault and no refusal. Every
byte decodes (R85, R91), and the spec names no exception but the two halting events (R254). That those two events
(treatment fault in U1) are next states with the halt register written is the model's choice, log entry 12
(DEDUCED); that a step of a Halted unit, which changes nothing (R226; treatment stuck in U2), is a next state is the
model's choice, log entry 6 (DEDUCED). (R85, R91, R226, R254) -/
def Obligations.StepAlwaysAnswersANextState : Prop :=
  ∀ s : State, ∃ t, step s = .next t

/-- If a state has its memory in canonical form, does not have N and Z both set, has B at 0 and has a truthful halt
register (Halted(none) only after a byte 00, Halted(invalid-opcode, addr) only with an invalid byte at addr and pc
at addr + 1), then so has the state after a step. (R25, R120, R268, R251, R252, R258) -/
def Obligations.StepKeepsTheInvariant : Prop :=
  ∀ s t : State, Inv s → step s = .next t → Inv t

/-- The machine right after reset, with the empty image (the model's choice of launch memory for State.reset, log entry
3), meets the invariant that every step keeps. (R35, R280) -/
def Obligations.ResetMeetsTheInvariant : Prop :=
  Inv State.reset

/-- For every image that fits in memory, the launch answers a state, and it meets the invariant that every step keeps.
(R35, R280, R282) -/
def Obligations.EveryLaunchMeetsTheInvariant : Prop :=
  ∀ image : List Byte, image.length ≤ 65536 → ∃ s, launch image = .next s ∧ Inv s

/-- The host's reset, in any state and with any launch memory m0, leaves A, X and Y at 0, SP at 0xFF, pc at 0, the seven
flags at 0, the halt register Running, and every byte of memory as m0 holds it. (R280) -/
def Obligations.ResetLeavesTheStatedValues : Prop :=
  ∀ (m0 : Memory) (s : State), ∃ t, perform m0 .reset s = .next (.done, t) ∧
    t.a = 0x00#8 ∧ t.x = 0x00#8 ∧ t.y = 0x00#8 ∧ t.sp = 0xFF#8 ∧ t.pc = 0x0000#16 ∧
    t.flags.n = false ∧ t.flags.v = false ∧ t.flags.b = false ∧ t.flags.d = false ∧ t.flags.i = false ∧
    t.flags.z = false ∧ t.flags.c = false ∧ t.halt = .running ∧ ∀ a : Word, memRead t a = m0.read a.toNat

/-- An image of at most 65536 bytes is launched into the reset state with its launch memory, in which address a holds
byte a of the image if there is one and 0x00 otherwise; a longer image is refused. (R282, R35) -/
def Obligations.LaunchMemoryHoldsTheImage : Prop :=
  ∀ image : List Byte,
    (image.length ≤ 65536 → launch image = .next (State.resetTo (launchMemory image)) ∧
      ∀ a : Word, memRead (State.resetTo (launchMemory image)) a = image.getD a.toNat 0x00#8) ∧
    (65536 < image.length → launch image = .refused (.imageTooLong image.length))

/-- A host that resets to zero-filled memory and then writes each image byte with WriteByte, from address 0 upward,
reaches exactly the state that a launch with that image gives. (R282, R241) -/
def Obligations.LoaderWritesReachTheLaunchState : Prop :=
  ∀ image : List Byte, image.length ≤ 65536 →
    ∃ replies t, performAll [] (loaderWrites image 0) State.reset = .next (replies, t) ∧ launch image = .next t

/-- From State.reset, whose memory is zero-filled (the model's choice of launch memory, log entry 3), the first step
halts with Halted(none) and pc 0x0001, and changes nothing else. (R293) -/
def Obligations.ZeroFilledMemoryHaltsAtOnce : Prop :=
  step State.reset = .next { State.reset with pc := 0x0001#16, halt := .halted .none }

/-- In every state, after a byte v is written at an address, that address reads v, every other address reads as before,
and no register, flag or halt register has changed; writing the same byte twice equals writing it once. (R50, R56,
R60) -/
def Obligations.MemoryReadsTheLastWrite : Prop :=
  ∀ (s : State) (addr : Word) (v : Byte),
    StoredOnly addr v s (memWrite addr v s) ∧
    memWrite addr v s = { s with mem := (memWrite addr v s).mem } ∧
    memWrite addr v (memWrite addr v s) = memWrite addr v s

/-- Read16(a) is 256 times the byte at (a + 1) mod 65536 plus the byte at a; Read16ZP(p) is 256 times the byte at (p +
1) mod 256 plus the byte at p, both bytes in page 0. (R102, R103, R51) -/
def Obligations.PointerReadsAreLittleEndianAndWrap : Prop :=
  ∀ (s : State) (a : Word) (p : Byte),
    (read16 s a).toNat = 256 * (s.mem.read ((a.toNat + 1) % 65536)).toNat + (s.mem.read a.toNat).toNat ∧
    (read16ZP s p).toNat = 256 * (s.mem.read ((p.toNat + 1) % 256)).toNat + (s.mem.read p.toNat).toNat

/-- For each of the nine address modes the resolved address is the one the mode's rule gives, with zero-page indexing
modulo 256, absolute and indirect indexing modulo 65536, zero-page pointers wrapping in page 0 and the indirect jump
pointer modulo 65536; a value operand is the immediate byte or the byte at that address; a shift or rotate reads A
in its accumulator form and the byte at that address in its memory forms. (R105, R106, R107, R108, R109, R110, R111,
R112, R113, R114, R116, R170) -/
def Obligations.EffectiveAddressesFollowTheMode : Prop :=
  ∀ (s : State) (b : Byte) (w : Word) (m : AddrOperand),
    (resolveAddr (.zp b) s).toNat = b.toNat ∧
    (resolveAddr (.zpx b) s).toNat = (b.toNat + s.x.toNat) % 256 ∧
    (resolveAddr (.zpy b) s).toNat = (b.toNat + s.y.toNat) % 256 ∧
    (resolveAddr (.abs w) s).toNat = w.toNat ∧
    (resolveAddr (.absx w) s).toNat = (w.toNat + s.x.toNat) % 65536 ∧
    (resolveAddr (.absy w) s).toNat = (w.toNat + s.y.toNat) % 65536 ∧
    (resolveAddr (.indx b) s).toNat =
      256 * (s.mem.read ((b.toNat + s.x.toNat + 1) % 256)).toNat +
        (s.mem.read ((b.toNat + s.x.toNat) % 256)).toNat ∧
    (resolveAddr (.indy b) s).toNat =
      (256 * (s.mem.read ((b.toNat + 1) % 256)).toNat + (s.mem.read b.toNat).toNat + s.y.toNat) % 65536 ∧
    (resolveAddr (.ind w) s).toNat =
      256 * (s.mem.read ((w.toNat + 1) % 65536)).toNat + (s.mem.read w.toNat).toNat ∧
    resolveValue (.imm b) s = b ∧
    resolveValue (.mem m) s = s.mem.read (resolveAddr m s).toNat ∧
    shiftOld .acc s = s.a ∧
    shiftOld (.mem m) s = s.mem.read (resolveAddr m s).toNat

/-- Whatever the instruction: for every cell it stores (STA, STX and STY the register; INC, DEC and the memory shifts
the new byte; JSR the high byte and the low byte of A0 + 3; PHA the accumulator), a fetch from any state with the
memory the instruction left reads the stored byte, as the opcode byte if the program counter is the stored address,
and as the byte k of the three fetched at the program counter if the stored address is pc + k modulo 65536. (R64,
R66) -/
def Obligations.StoreIsSeenByTheNextFetch : Prop :=
  ∀ (i : Instr) (s t : State), exec i s = .next t → ∀ c ∈ storedCells i s, ∀ u : State, u.mem = t.mem →
    (u.pc = c.1 → (fetch8 u).1 = c.2) ∧
    ∀ k : Nat, k < 3 → c.1.toNat = (u.pc.toNat + k) % 65536 → (fetchBytes u)[k]? = some c.2

/-- SetNZ(v) sets N exactly if v is at least 128 and Z exactly if v is 0, never both, and leaves the five other flags as
they were. (R120) -/
def Obligations.SetNZFollowsTheByte : Prop :=
  ∀ (v : Byte) (f : Flags), NZFollow v (setNZ v f) ∧ ¬((setNZ v f).n = true ∧ (setNZ v f).z = true) ∧
    setNZ v f = { f with n := (setNZ v f).n, z := (setNZ v f).z }

/-- For all bytes a, b and carry-in: the result is (a + b + cin) mod 256; the carry is 1 iff a + b + cin is at least
256; a + b + cin = 256 c + r exactly; V is 1 iff the operands have equal sign bits and the result's differs, iff the
signed sum lies outside -128..127, iff bit 7 of (a xor r) and (b xor r) is 1, iff the carry into bit 7 differs from
the carry out. (R121, R122) -/
def Obligations.AddObeysItsLaws : Prop :=
  ∀ (a b : Byte) (cin : Bool),
    (add a b cin).r.toNat = (a.toNat + b.toNat + cin.toNat) % 256 ∧
    ((add a b cin).c = true ↔ 256 ≤ a.toNat + b.toNat + cin.toNat) ∧
    a.toNat + b.toNat + cin.toNat = 256 * (add a b cin).c.toNat + (add a b cin).r.toNat ∧
    ((add a b cin).v = true ↔ a.msb = b.msb ∧ (add a b cin).r.msb ≠ a.msb) ∧
    ((add a b cin).v = true ↔
      a.toInt + b.toInt + cin.toNat < -128 ∨ 127 < a.toInt + b.toInt + cin.toNat) ∧
    (add a b cin).v = ((a ^^^ (add a b cin).r) &&& (b ^^^ (add a b cin).r)).msb ∧
    (add a b cin).v = (decide (128 ≤ a.toNat % 128 + b.toNat % 128 + cin.toNat)).xor (add a b cin).c

/-- For all bytes a, m and carry-in: the result is (a - m + cin) mod 256; the carry is 1 iff a + cin >= m; V is the
overflow rule on a and the negated operand (256 - m) mod 256; and V is the true signed overflow of a - m + cin for
every m but 0x80, where it is its complement. (R123) -/
def Obligations.NegAddObeysItsClosedForms : Prop :=
  ∀ (a m : Byte) (cin : Bool),
    ((negAdd a m cin).r.toNat : Int) = ((a.toNat : Int) - m.toNat + cin.toNat) % 256 ∧
    ((negAdd a m cin).c = true ↔ m.toNat ≤ a.toNat + cin.toNat) ∧
    ((negAdd a m cin).v = true ↔
      (128 ≤ a.toNat ↔ 128 ≤ (256 - m.toNat) % 256) ∧ ¬(128 ≤ (negAdd a m cin).r.toNat ↔ 128 ≤ a.toNat)) ∧
    (m ≠ 0x80#8 → ((negAdd a m cin).v = true ↔
      a.toInt - m.toInt + cin.toNat < -128 ∨ 127 < a.toInt - m.toInt + cin.toNat)) ∧
    (m = 0x80#8 → ((negAdd a m cin).v = true ↔
      ¬(a.toInt - m.toInt + cin.toNat < -128 ∨ 127 < a.toInt - m.toInt + cin.toNat)))

/-- Compare(reg, m) sets C iff reg >= m unsigned, Z iff reg = m, N to bit 7 of (reg - m) mod 256 and V to the V of
NegAdd(reg, m, 0); B, D and I stay, and the four written flags do not depend on the flags before. (R124) -/
def Obligations.CompareSetsCarryZeroNegativeOverflow : Prop :=
  ∀ (reg m : Byte) (f g : Flags),
    ((compareFlags reg m f).c = true ↔ m.toNat ≤ reg.toNat) ∧
    ((compareFlags reg m f).z = true ↔ reg = m) ∧
    ((compareFlags reg m f).n = true ↔ 128 ≤ (reg.toNat + 256 - m.toNat) % 256) ∧
    (compareFlags reg m f).v = (negAdd reg m false).v ∧
    compareFlags reg m f = { compareFlags reg m g with b := f.b, d := f.d, i := f.i }

/-- ASL doubles modulo 256, LSR halves, ROL and ROR also shift the carry in; the carry out is bit 7 of the old byte for
the left shifts and bit 0 for the right ones; ASL and LSR ignore the carry in; the flags written are C and the N and
Z of the new byte; and nine applications of ROL, or of ROR, restore byte and carry. (R126) -/
def Obligations.ShiftMovesOneBit : Prop :=
  (∀ (old : Byte) (cin : Bool),
    (shift .asl old cin).1.toNat = 2 * old.toNat % 256 ∧
    (shift .lsr old cin).1.toNat = old.toNat / 2 ∧
    (shift .rol old cin).1.toNat = 2 * old.toNat % 256 + cin.toNat ∧
    (shift .ror old cin).1.toNat = old.toNat / 2 + 128 * cin.toNat ∧
    ((shift .asl old cin).2 = true ↔ 128 ≤ old.toNat) ∧ ((shift .rol old cin).2 = true ↔ 128 ≤ old.toNat) ∧
    ((shift .lsr old cin).2 = true ↔ old.toNat % 2 = 1) ∧ ((shift .ror old cin).2 = true ↔ old.toNat % 2 = 1) ∧
    shift .asl old cin = shift .asl old false ∧ shift .lsr old cin = shift .lsr old false ∧
    (Nat.iterate (fun p : Byte × Bool => shift .rol p.1 p.2) 9 (old, cin)) = (old, cin) ∧
    (Nat.iterate (fun p : Byte × Bool => shift .ror p.1 p.2) 9 (old, cin)) = (old, cin)) ∧
  ∀ (new : Byte) (c : Bool) (f : Flags), NZFollow new (setShiftFlags new c f) ∧
    setShiftFlags new c f =
      { f with c := c, n := (setShiftFlags new c f).n, z := (setShiftFlags new c f).z }

/-- Bit 7 of P is N, bit 6 V, bit 5 is 1, bit 4 B, bit 3 D, bit 2 I, bit 1 Z and bit 0 C. (R32) -/
def Obligations.StatusByteHasTheDocumentedLayout : Prop :=
  ∀ f : Flags, f.statusByte.getLsbD 7 = f.n ∧ f.statusByte.getLsbD 6 = f.v ∧ f.statusByte.getLsbD 5 = true ∧
    f.statusByte.getLsbD 4 = f.b ∧ f.statusByte.getLsbD 3 = f.d ∧ f.statusByte.getLsbD 2 = f.i ∧
    f.statusByte.getLsbD 1 = f.z ∧ f.statusByte.getLsbD 0 = f.c

/-- For every operand form and state, LDA, LDX and LDY complete: their register holds the operand's value, N and Z
follow it, the program counter is past the instruction, and nothing else has changed: no other register or flag, no
byte of memory, not the halt register. Each is offered in exactly the modes and with the opcode bytes the rule
lists. (R141, R142, R143) -/
def Obligations.LoadsWriteTheRegisterAndNZ : Prop :=
  ∀ (v : ValueOperand) (s : State),
    (∃ t, exec (.lda v) s = .next t ∧ t.a = resolveValue v s ∧ NZFollow t.a t.flags ∧ PcPast (.lda v) s t ∧
      t = { s with a := t.a, pc := t.pc, flags := { s.flags with n := t.flags.n, z := t.flags.z } }) ∧
    (∃ t, exec (.ldx v) s = .next t ∧ t.x = resolveValue v s ∧ NZFollow t.x t.flags ∧ PcPast (.ldx v) s t ∧
      t = { s with x := t.x, pc := t.pc, flags := { s.flags with n := t.flags.n, z := t.flags.z } }) ∧
    (∃ t, exec (.ldy v) s = .next t ∧ t.y = resolveValue v s ∧ NZFollow t.y t.flags ∧ PcPast (.ldy v) s t ∧
      t = { s with y := t.y, pc := t.pc, flags := { s.flags with n := t.flags.n, z := t.flags.z } }) ∧
    (Instr.lda v).opcode = List.lookup v.mode
      [(Mode.imm, 0xA9#8), (.zp, 0xA5#8), (.zpx, 0xB5#8), (.abs, 0xAD#8), (.absx, 0xBD#8), (.absy, 0xB9#8), (.indx, 0xA1#8), (.indy, 0xB1#8)] ∧
    (Instr.ldx v).opcode = List.lookup v.mode
      [(Mode.imm, 0xA2#8), (.zp, 0xA6#8), (.zpy, 0xB6#8), (.abs, 0xAE#8), (.absy, 0xBE#8)] ∧
    (Instr.ldy v).opcode = List.lookup v.mode
      [(Mode.imm, 0xA0#8), (.zp, 0xA4#8), (.zpx, 0xB4#8), (.abs, 0xAC#8), (.absx, 0xBC#8)]

/-- For every operand form and state, STA, STX and STY complete: the byte at the effective address is the register's,
every other byte of memory reads as before, the program counter is past the instruction, and no register, no flag
and not the halt register has changed. Each is offered in exactly the modes and with the opcode bytes the rule
lists. (R144, R145, R146) -/
def Obligations.StoresWriteOneByteSilently : Prop :=
  ∀ (m : AddrOperand) (s : State),
    (∃ t, exec (.sta m) s = .next t ∧ StoredOnly (resolveAddr m s) s.a s t ∧ PcPast (.sta m) s t ∧
      t = { s with pc := t.pc, mem := t.mem }) ∧
    (∃ t, exec (.stx m) s = .next t ∧ StoredOnly (resolveAddr m s) s.x s t ∧ PcPast (.stx m) s t ∧
      t = { s with pc := t.pc, mem := t.mem }) ∧
    (∃ t, exec (.sty m) s = .next t ∧ StoredOnly (resolveAddr m s) s.y s t ∧ PcPast (.sty m) s t ∧
      t = { s with pc := t.pc, mem := t.mem }) ∧
    (Instr.sta m).opcode = List.lookup m.mode
      [(Mode.zp, 0x85#8), (.zpx, 0x95#8), (.abs, 0x8D#8), (.absx, 0x9D#8), (.absy, 0x99#8), (.indx, 0x81#8), (.indy, 0x91#8)] ∧
    (Instr.stx m).opcode = List.lookup m.mode
      [(Mode.zp, 0x86#8), (.zpy, 0x96#8), (.abs, 0x8E#8)] ∧
    (Instr.sty m).opcode = List.lookup m.mode
      [(Mode.zp, 0x84#8), (.zpx, 0x94#8), (.abs, 0x8C#8)]

/-- For every operand form and state, ADC completes: with M the operand's value, A + M + C (old values) equals 256 times
the new carry plus the new accumulator; the new V says that the signed sum lies outside -128..127; N and Z follow
the new accumulator; the program counter is past the instruction; nothing else has changed, and D plays no part. It
is offered in exactly the modes and with the opcode bytes the rule lists. (R151) -/
def Obligations.AdcAddsOperandAndCarry : Prop :=
  ∀ (v : ValueOperand) (s : State),
    (∃ t, exec (.adc v) s = .next t ∧
      s.a.toNat + (resolveValue v s).toNat + s.flags.c.toNat = 256 * t.flags.c.toNat + t.a.toNat ∧
      (t.flags.v = true ↔ s.a.toInt + (resolveValue v s).toInt + s.flags.c.toNat < -128 ∨
        127 < s.a.toInt + (resolveValue v s).toInt + s.flags.c.toNat) ∧
      NZFollow t.a t.flags ∧ PcPast (.adc v) s t ∧
      t = { s with a := t.a, pc := t.pc, flags := { s.flags with n := t.flags.n, v := t.flags.v, z := t.flags.z, c := t.flags.c } }) ∧
    (Instr.adc v).opcode = List.lookup v.mode
      [(Mode.imm, 0x69#8), (.zp, 0x65#8), (.zpx, 0x75#8), (.abs, 0x6D#8), (.absx, 0x7D#8), (.absy, 0x79#8), (.indx, 0x61#8), (.indy, 0x71#8)]

/-- For every operand form and state, SBC completes: with M the operand's value, the new accumulator is (A - M + C) mod
256 (old values); the new carry is 1 iff A + C >= M; the new V is 1 iff A and the negated operand (256 - M) mod 256
have equal sign bits and the result's differs; N and Z follow the new accumulator; the program counter is past the
instruction; nothing else has changed. It is offered in exactly the modes and with the opcode bytes the rule lists.
(R152) -/
def Obligations.SbcSubtractsOperandAndAddsCarry : Prop :=
  ∀ (v : ValueOperand) (s : State),
    (∃ t, exec (.sbc v) s = .next t ∧
      (t.a.toNat : Int) = ((s.a.toNat : Int) - (resolveValue v s).toNat + s.flags.c.toNat) % 256 ∧
      (t.flags.c = true ↔ (resolveValue v s).toNat ≤ s.a.toNat + s.flags.c.toNat) ∧
      (t.flags.v = true ↔ (128 ≤ s.a.toNat ↔ 128 ≤ (256 - (resolveValue v s).toNat) % 256) ∧
        ¬(128 ≤ t.a.toNat ↔ 128 ≤ s.a.toNat)) ∧
      NZFollow t.a t.flags ∧ PcPast (.sbc v) s t ∧
      t = { s with a := t.a, pc := t.pc, flags := { s.flags with n := t.flags.n, v := t.flags.v, z := t.flags.z, c := t.flags.c } }) ∧
    (Instr.sbc v).opcode = List.lookup v.mode
      [(Mode.imm, 0xE9#8), (.zp, 0xE5#8), (.zpx, 0xF5#8), (.abs, 0xED#8), (.absx, 0xFD#8), (.absy, 0xF9#8), (.indx, 0xE1#8), (.indy, 0xF1#8)]

/-- For every operand form and state, INC and DEC complete: the byte at the effective address becomes the old one plus
or minus 1 modulo 256, every other byte reads as before, N and Z follow the new byte, the program counter is past
the instruction, and no register, no other flag and not the halt register has changed. Each is offered in exactly
the modes and with the opcode bytes the rule lists. (R153, R154) -/
def Obligations.IncAndDecModifyOneByte : Prop :=
  ∀ (m : AddrOperand) (s : State),
    (∃ t v, exec (.inc m) s = .next t ∧ v.toNat = ((memRead s (resolveAddr m s)).toNat + 1) % 256 ∧
      StoredOnly (resolveAddr m s) v s t ∧ NZFollow v t.flags ∧ PcPast (.inc m) s t ∧
      t = { s with pc := t.pc, mem := t.mem, flags := { s.flags with n := t.flags.n, z := t.flags.z } }) ∧
    (∃ t v, exec (.dec m) s = .next t ∧ v.toNat = ((memRead s (resolveAddr m s)).toNat + 255) % 256 ∧
      StoredOnly (resolveAddr m s) v s t ∧ NZFollow v t.flags ∧ PcPast (.dec m) s t ∧
      t = { s with pc := t.pc, mem := t.mem, flags := { s.flags with n := t.flags.n, z := t.flags.z } }) ∧
    (Instr.inc m).opcode = List.lookup m.mode
      [(Mode.zp, 0xE6#8), (.zpx, 0xF6#8), (.abs, 0xEE#8), (.absx, 0xFE#8)] ∧
    (Instr.dec m).opcode = List.lookup m.mode
      [(Mode.zp, 0xC6#8), (.zpx, 0xD6#8), (.abs, 0xCE#8), (.absx, 0xDE#8)]

/-- In every state INX, INY, DEX and DEY complete: their register is the old one plus or minus 1 modulo 256, N and Z
follow it, the program counter is past the one byte, and nothing else has changed; their opcode bytes are E8, C8, CA
and 88. (R155, R156, R157, R158) -/
def Obligations.IndexIncrementAndDecrement : Prop :=
  ∀ s : State,
    (∃ t, exec .inx s = .next t ∧ t.x.toNat = (s.x.toNat + 1) % 256 ∧ NZFollow t.x t.flags ∧ PcPast .inx s t ∧
      t = { s with x := t.x, pc := t.pc, flags := { s.flags with n := t.flags.n, z := t.flags.z } }) ∧
    Instr.inx.opcode = some 0xE8#8 ∧
    (∃ t, exec .iny s = .next t ∧ t.y.toNat = (s.y.toNat + 1) % 256 ∧ NZFollow t.y t.flags ∧ PcPast .iny s t ∧
      t = { s with y := t.y, pc := t.pc, flags := { s.flags with n := t.flags.n, z := t.flags.z } }) ∧
    Instr.iny.opcode = some 0xC8#8 ∧
    (∃ t, exec .dex s = .next t ∧ t.x.toNat = (s.x.toNat + 255) % 256 ∧ NZFollow t.x t.flags ∧ PcPast .dex s t ∧
      t = { s with x := t.x, pc := t.pc, flags := { s.flags with n := t.flags.n, z := t.flags.z } }) ∧
    Instr.dex.opcode = some 0xCA#8 ∧
    (∃ t, exec .dey s = .next t ∧ t.y.toNat = (s.y.toNat + 255) % 256 ∧ NZFollow t.y t.flags ∧ PcPast .dey s t ∧
      t = { s with y := t.y, pc := t.pc, flags := { s.flags with n := t.flags.n, z := t.flags.z } }) ∧
    Instr.dey.opcode = some 0x88#8

/-- For every operand form and state, AND, ORA and EOR complete: each bit of the new accumulator is the Boolean function
of the same bits of A and the operand's value, N and Z follow it, the program counter is past the instruction, and
nothing else has changed. Each is offered in exactly the modes and with the opcode bytes the rule lists. (R161,
R162, R163) -/
def Obligations.LogicalInstructionsWorkBitwise : Prop :=
  ∀ (v : ValueOperand) (s : State),
    (∃ t, exec (.and v) s = .next t ∧
      (∀ k < 8, t.a.getLsbD k = Bool.and (s.a.getLsbD k) ((resolveValue v s).getLsbD k)) ∧
      NZFollow t.a t.flags ∧ PcPast (.and v) s t ∧
      t = { s with a := t.a, pc := t.pc, flags := { s.flags with n := t.flags.n, z := t.flags.z } }) ∧
    (∃ t, exec (.ora v) s = .next t ∧
      (∀ k < 8, t.a.getLsbD k = Bool.or (s.a.getLsbD k) ((resolveValue v s).getLsbD k)) ∧
      NZFollow t.a t.flags ∧ PcPast (.ora v) s t ∧
      t = { s with a := t.a, pc := t.pc, flags := { s.flags with n := t.flags.n, z := t.flags.z } }) ∧
    (∃ t, exec (.eor v) s = .next t ∧
      (∀ k < 8, t.a.getLsbD k = Bool.xor (s.a.getLsbD k) ((resolveValue v s).getLsbD k)) ∧
      NZFollow t.a t.flags ∧ PcPast (.eor v) s t ∧
      t = { s with a := t.a, pc := t.pc, flags := { s.flags with n := t.flags.n, z := t.flags.z } }) ∧
    (Instr.and v).opcode = List.lookup v.mode
      [(Mode.imm, 0x29#8), (.zp, 0x25#8), (.zpx, 0x35#8), (.abs, 0x2D#8), (.absx, 0x3D#8), (.absy, 0x39#8), (.indx, 0x21#8), (.indy, 0x31#8)] ∧
    (Instr.ora v).opcode = List.lookup v.mode
      [(Mode.imm, 0x09#8), (.zp, 0x05#8), (.zpx, 0x15#8), (.abs, 0x0D#8), (.absx, 0x1D#8), (.absy, 0x19#8), (.indx, 0x01#8), (.indy, 0x11#8)] ∧
    (Instr.eor v).opcode = List.lookup v.mode
      [(Mode.imm, 0x49#8), (.zp, 0x45#8), (.zpx, 0x55#8), (.abs, 0x4D#8), (.absx, 0x5D#8), (.absy, 0x59#8), (.indx, 0x41#8), (.indy, 0x51#8)]

/-- For every operand form and state, CMP, CPX and CPY complete: C is 1 iff the register is at least the operand's
value, Z iff they are equal, N is bit 7 of the difference modulo 256, V is the V of NegAdd with carry-in 0, the
program counter is past the instruction, and nothing else has changed. Each is offered in exactly the modes and with
the opcode bytes the rule lists. (R164, R165, R166) -/
def Obligations.ComparesWriteFlagsOnly : Prop :=
  ∀ (v : ValueOperand) (s : State),
    (∃ t, exec (.cmp v) s = .next t ∧
      (t.flags.c = true ↔ (resolveValue v s).toNat ≤ s.a.toNat) ∧ (t.flags.z = true ↔ s.a = resolveValue v s) ∧
      (t.flags.n = true ↔ 128 ≤ (s.a.toNat + 256 - (resolveValue v s).toNat) % 256) ∧
      t.flags.v = (negAdd s.a (resolveValue v s) false).v ∧ PcPast (.cmp v) s t ∧
      t = { s with pc := t.pc, flags := { s.flags with n := t.flags.n, v := t.flags.v, z := t.flags.z, c := t.flags.c } }) ∧
    (∃ t, exec (.cpx v) s = .next t ∧
      (t.flags.c = true ↔ (resolveValue v s).toNat ≤ s.x.toNat) ∧ (t.flags.z = true ↔ s.x = resolveValue v s) ∧
      (t.flags.n = true ↔ 128 ≤ (s.x.toNat + 256 - (resolveValue v s).toNat) % 256) ∧
      t.flags.v = (negAdd s.x (resolveValue v s) false).v ∧ PcPast (.cpx v) s t ∧
      t = { s with pc := t.pc, flags := { s.flags with n := t.flags.n, v := t.flags.v, z := t.flags.z, c := t.flags.c } }) ∧
    (∃ t, exec (.cpy v) s = .next t ∧
      (t.flags.c = true ↔ (resolveValue v s).toNat ≤ s.y.toNat) ∧ (t.flags.z = true ↔ s.y = resolveValue v s) ∧
      (t.flags.n = true ↔ 128 ≤ (s.y.toNat + 256 - (resolveValue v s).toNat) % 256) ∧
      t.flags.v = (negAdd s.y (resolveValue v s) false).v ∧ PcPast (.cpy v) s t ∧
      t = { s with pc := t.pc, flags := { s.flags with n := t.flags.n, v := t.flags.v, z := t.flags.z, c := t.flags.c } }) ∧
    (Instr.cmp v).opcode = List.lookup v.mode
      [(Mode.imm, 0xC9#8), (.zp, 0xC5#8), (.zpx, 0xD5#8), (.abs, 0xCD#8), (.absx, 0xDD#8), (.absy, 0xD9#8), (.indx, 0xC1#8), (.indy, 0xD1#8)] ∧
    (Instr.cpx v).opcode = List.lookup v.mode
      [(Mode.imm, 0xE0#8), (.zp, 0xE4#8), (.abs, 0xEC#8)] ∧
    (Instr.cpy v).opcode = List.lookup v.mode
      [(Mode.imm, 0xC0#8), (.zp, 0xC4#8), (.abs, 0xCC#8)]

/-- For every operand form and state, ASL and LSR complete: the accumulator or the byte at the effective address becomes
twice the old one modulo 256 (ASL) or half of it (LSR); C is the bit pushed out (bit 7, bit 0); N and Z follow the
new byte; every other byte, register and flag is unchanged and the program counter is past the instruction. Each is
offered in exactly the modes and with the opcode bytes the rule lists. (R171, R172) -/
def Obligations.PlainShiftsMoveOneBitOut : Prop :=
  ∀ (o : ShiftOperand) (s : State),
    (∃ t old new, exec (.asl o) s = .next t ∧ ShiftReads o s old ∧ new.toNat = 2 * old.toNat % 256 ∧
      (t.flags.c = true ↔ 128 ≤ old.toNat) ∧ ShiftedTo o new s t ∧ PcPast (.asl o) s t) ∧
    (∃ t old new, exec (.lsr o) s = .next t ∧ ShiftReads o s old ∧ new.toNat = old.toNat / 2 ∧
      (t.flags.c = true ↔ old.toNat % 2 = 1) ∧ ShiftedTo o new s t ∧ PcPast (.lsr o) s t) ∧
    (Instr.asl o).opcode = List.lookup o.mode
      [(Mode.imp, 0x0A#8), (.zp, 0x06#8), (.zpx, 0x16#8), (.abs, 0x0E#8), (.absx, 0x1E#8)] ∧
    (Instr.lsr o).opcode = List.lookup o.mode
      [(Mode.imp, 0x4A#8), (.zp, 0x46#8), (.zpx, 0x56#8), (.abs, 0x4E#8), (.absx, 0x5E#8)]

/-- For every operand form and state, ROL and ROR complete: the accumulator or the byte at the effective address becomes
twice the old one modulo 256 plus the old carry (ROL) or half of it plus 128 times the old carry (ROR); C is the bit
pushed out (bit 7, bit 0); N and Z follow the new byte; every other byte, register and flag is unchanged and the
program counter is past the instruction. Each is offered in exactly the modes and with the opcode bytes the rule
lists. (R173, R174) -/
def Obligations.RotatesMoveThroughTheCarry : Prop :=
  ∀ (o : ShiftOperand) (s : State),
    (∃ t old new, exec (.rol o) s = .next t ∧ ShiftReads o s old ∧ new.toNat = 2 * old.toNat % 256 + s.flags.c.toNat ∧
      (t.flags.c = true ↔ 128 ≤ old.toNat) ∧ ShiftedTo o new s t ∧ PcPast (.rol o) s t) ∧
    (∃ t old new, exec (.ror o) s = .next t ∧ ShiftReads o s old ∧ new.toNat = old.toNat / 2 + 128 * s.flags.c.toNat ∧
      (t.flags.c = true ↔ old.toNat % 2 = 1) ∧ ShiftedTo o new s t ∧ PcPast (.ror o) s t) ∧
    (Instr.rol o).opcode = List.lookup o.mode
      [(Mode.imp, 0x2A#8), (.zp, 0x26#8), (.zpx, 0x36#8), (.abs, 0x2E#8), (.absx, 0x3E#8)] ∧
    (Instr.ror o).opcode = List.lookup o.mode
      [(Mode.imp, 0x6A#8), (.zp, 0x66#8), (.zpx, 0x76#8), (.abs, 0x6E#8), (.absx, 0x7E#8)]

/-- For every displacement byte and state, each branch completes and changes the program counter alone: to (A0 + 2 +
signed(d)) mod 65536 if its condition holds (BPL N=0, BMI N=1, BVC V=0, BVS V=1, BCC C=0, BCS C=1, BNE Z=0, BEQ Z=1)
and to (A0 + 2) mod 65536 otherwise. Their opcode bytes are 10, 30, 50, 70, 90, B0, D0 and F0. (R180, R181, R182,
R183, R184, R185, R186, R187, R188) -/
def Obligations.BranchesAddTheDisplacementIfTaken : Prop :=
  ∀ (d : Byte) (s : State),
    BranchesOn (.bpl d) (!s.flags.n) d s ∧ (Instr.bpl d).opcode = some 0x10#8 ∧
    BranchesOn (.bmi d) s.flags.n d s ∧ (Instr.bmi d).opcode = some 0x30#8 ∧
    BranchesOn (.bvc d) (!s.flags.v) d s ∧ (Instr.bvc d).opcode = some 0x50#8 ∧
    BranchesOn (.bvs d) s.flags.v d s ∧ (Instr.bvs d).opcode = some 0x70#8 ∧
    BranchesOn (.bcc d) (!s.flags.c) d s ∧ (Instr.bcc d).opcode = some 0x90#8 ∧
    BranchesOn (.bcs d) s.flags.c d s ∧ (Instr.bcs d).opcode = some 0xB0#8 ∧
    BranchesOn (.bne d) (!s.flags.z) d s ∧ (Instr.bne d).opcode = some 0xD0#8 ∧
    BranchesOn (.beq d) s.flags.z d s ∧ (Instr.beq d).opcode = some 0xF0#8

/-- In every state JMP absolute completes with the program counter at its operand, and JMP indirect with the program
counter at the little-endian word whose low byte is at the pointer and whose high byte is at (pointer + 1) mod
65536; nothing else has changed. Their opcode bytes are 4C and 6C. (R190, R191) -/
def Obligations.JumpsSetTheProgramCounter : Prop :=
  ∀ (w : Word) (s : State),
    exec (.jmpAbs w) s = .next { s with pc := w } ∧ (Instr.jmpAbs w).opcode = some 0x4C#8 ∧
    (∃ t, exec (.jmpInd w) s = .next t ∧ t = { s with pc := t.pc } ∧
      t.pc.toNat = 256 * (s.mem.read ((w.toNat + 1) % 65536)).toNat + (s.mem.read w.toNat).toNat) ∧
    (Instr.jmpInd w).opcode = some 0x6C#8

/-- In every state JSR completes: the high byte of (A0 + 3) mod 65536 is at 0x0100 + SP and the low byte at 0x0100 + (SP
- 1) mod 256, every other byte reads as before, SP is lower by 2 modulo 256, the program counter is the operand, and
no other register, no flag and not the halt register has changed. Its opcode byte is 20. (R192) -/
def Obligations.JsrPushesTheReturnAddress : Prop :=
  ∀ (w : Word) (s : State), ∃ t, exec (.jsr w) s = .next t ∧
    t.pc = w ∧ t.sp.toNat = (s.sp.toNat + 254) % 256 ∧
    (t.mem.read (0x0100 + s.sp.toNat)).toNat = (s.pc.toNat + 3) % 65536 / 256 ∧
    (t.mem.read (0x0100 + (s.sp.toNat + 255) % 256)).toNat = (s.pc.toNat + 3) % 65536 % 256 ∧
    (∀ b : Word, b.toNat ≠ 0x0100 + s.sp.toNat → b.toNat ≠ 0x0100 + (s.sp.toNat + 255) % 256 →
      memRead t b = memRead s b) ∧
    t = { s with pc := t.pc, sp := t.sp, mem := t.mem } ∧ (Instr.jsr w).opcode = some 0x20#8

/-- In every state RTS completes: the program counter is 256 times the byte at 0x0100 + (SP + 2) mod 256 plus the byte
at 0x0100 + (SP + 1) mod 256, verbatim; SP is higher by 2 modulo 256; nothing else has changed. Its opcode byte is
60. (R193) -/
def Obligations.RtsPopsTheProgramCounter : Prop :=
  ∀ s : State, ∃ t, exec .rts s = .next t ∧
    t.pc.toNat = 256 * (s.mem.read (0x0100 + (s.sp.toNat + 2) % 256)).toNat +
      (s.mem.read (0x0100 + (s.sp.toNat + 1) % 256)).toNat ∧
    t.sp.toNat = (s.sp.toNat + 2) % 256 ∧ t = { s with pc := t.pc, sp := t.sp } ∧
    Instr.rts.opcode = some 0x60#8

/-- In every state each flag instruction completes: its flag is 0 (clear) or 1 (set) whatever it was, the program
counter is past the one byte, and no other flag, no register, no byte of memory and not the halt register has
changed. The opcode bytes are 18, 38, 58, 78, B8, D8 and F8. (R201, R202, R203, R204, R205, R206, R207) -/
def Obligations.FlagInstructionsWriteOneConstant : Prop :=
  ∀ s : State,
    (∃ t, exec .clc s = .next t ∧ PcPast .clc s t ∧
      t = { s with pc := t.pc, flags := { s.flags with c := false } }) ∧ Instr.clc.opcode = some 0x18#8 ∧
    (∃ t, exec .sec s = .next t ∧ PcPast .sec s t ∧
      t = { s with pc := t.pc, flags := { s.flags with c := true } }) ∧ Instr.sec.opcode = some 0x38#8 ∧
    (∃ t, exec .cli s = .next t ∧ PcPast .cli s t ∧
      t = { s with pc := t.pc, flags := { s.flags with i := false } }) ∧ Instr.cli.opcode = some 0x58#8 ∧
    (∃ t, exec .sei s = .next t ∧ PcPast .sei s t ∧
      t = { s with pc := t.pc, flags := { s.flags with i := true } }) ∧ Instr.sei.opcode = some 0x78#8 ∧
    (∃ t, exec .clv s = .next t ∧ PcPast .clv s t ∧
      t = { s with pc := t.pc, flags := { s.flags with v := false } }) ∧ Instr.clv.opcode = some 0xB8#8 ∧
    (∃ t, exec .cld s = .next t ∧ PcPast .cld s t ∧
      t = { s with pc := t.pc, flags := { s.flags with d := false } }) ∧ Instr.cld.opcode = some 0xD8#8 ∧
    (∃ t, exec .sed s = .next t ∧ PcPast .sed s t ∧
      t = { s with pc := t.pc, flags := { s.flags with d := true } }) ∧ Instr.sed.opcode = some 0xF8#8

/-- In every state PHA completes: the byte at 0x0100 + SP is the accumulator, every other byte reads as before, SP is
lower by 1 modulo 256, the program counter is past the one byte, and no other register, no flag and not the halt
register has changed. Its opcode byte is 48. (R208) -/
def Obligations.PhaPushesTheAccumulator : Prop :=
  ∀ s : State, ∃ t, exec .pha s = .next t ∧ StoredOnly (BitVec.ofNat 16 (0x0100 + s.sp.toNat)) s.a s t ∧
    t.sp.toNat = (s.sp.toNat + 255) % 256 ∧ PcPast .pha s t ∧
    t = { s with pc := t.pc, sp := t.sp, mem := t.mem } ∧ Instr.pha.opcode = some 0x48#8

/-- In every state PLA completes: SP is higher by 1 modulo 256, the accumulator is the byte at 0x0100 plus the new SP, N
and Z follow it, the program counter is past the one byte, and no other register or flag, no byte of memory and not
the halt register has changed. Its opcode byte is 68. (R209) -/
def Obligations.PlaPullsTheAccumulator : Prop :=
  ∀ s : State, ∃ t, exec .pla s = .next t ∧ t.sp.toNat = (s.sp.toNat + 1) % 256 ∧
    t.a = s.mem.read (0x0100 + (s.sp.toNat + 1) % 256) ∧ NZFollow t.a t.flags ∧ PcPast .pla s t ∧
    t = { s with a := t.a, sp := t.sp, pc := t.pc, flags := { s.flags with n := t.flags.n, z := t.flags.z } } ∧
    Instr.pla.opcode = some 0x68#8

/-- In every state BRK completes with Halted(none), and an invalid opcode byte with Halted(invalid-opcode, A0); in both
the program counter is (A0 + 1) mod 65536 and nothing else has changed: no register, no flag, no byte of memory,
nothing pushed. BRK's opcode byte is 00. (R210, R211, R251, R252) -/
def Obligations.HaltingEventsWriteTheHaltRegisterOnly : Prop :=
  ∀ (op : Byte) (s : State),
    (∃ t, exec .brk s = .next t ∧ t.pc.toNat = (s.pc.toNat + 1) % 65536 ∧
      t = { s with pc := t.pc, halt := .halted .none }) ∧ Instr.brk.opcode = some 0x00#8 ∧
    (∃ t, exec (.invalid op) s = .next t ∧ t.pc.toNat = (s.pc.toNat + 1) % 65536 ∧
      t = { s with pc := t.pc, halt := .halted (.invalidOpcode s.pc) }) ∧
    (op ∈ invalidBytes ↔ oprom op = ⟨.invalid, .inv⟩)

/-- Push8(v) stores v at 0x0100 + SP, changes no other byte and lowers SP by 1 modulo 256; Pop8 raises SP by 1 modulo
256 and returns the byte at 0x0100 plus the new SP, changing nothing else; and Pop8 after Push8(v), with any writes
between that spare the pushed address, returns v and restores SP, the byte staying in memory. (R27, R28) -/
def Obligations.PushAndPopAreInverse : Prop :=
  ∀ (s : State) (v : Byte),
    StoredOnly (BitVec.ofNat 16 (0x0100 + s.sp.toNat)) v s (push8 v s) ∧
    (push8 v s).sp.toNat = (s.sp.toNat + 255) % 256 ∧
    push8 v s = { s with sp := (push8 v s).sp, mem := (push8 v s).mem } ∧
    (pop8 s).1 = s.mem.read (0x0100 + (s.sp.toNat + 1) % 256) ∧
    (pop8 s).2.sp.toNat = (s.sp.toNat + 1) % 256 ∧ (pop8 s).2 = { s with sp := (pop8 s).2.sp } ∧
    ∀ u : State, u.sp = (push8 v s).sp →
      memRead u (BitVec.ofNat 16 (0x0100 + s.sp.toNat)) = memRead (push8 v s) (BitVec.ofNat 16 (0x0100 + s.sp.toNat)) →
      (pop8 u).1 = v ∧ (pop8 u).2.sp = s.sp ∧ (pop8 u).2.mem = u.mem

/-- A push takes SP 0x00 to 0xFF and a pop takes 0xFF to 0x00; after 256 pushes of any bytes SP is what it was, and the
next push overwrites the byte the first of them wrote, at 0x0100 + SP; a push changes no byte outside
0x0100..0x01FF, and what a pop returns depends on no byte outside. (R29) -/
def Obligations.TheStackIsARingInPageOne : Prop :=
  (∀ (s : State) (v : Byte), s.sp = 0x00#8 → (push8 v s).sp = 0xFF#8) ∧
  (∀ s : State, s.sp = 0xFF#8 → (pop8 s).2.sp = 0x00#8) ∧
  (∀ (s : State) (vs : List Byte), vs.length = 256 → (vs.foldl (fun t v => push8 v t) s).sp = s.sp ∧
    ∀ w : Byte, memRead (push8 w (vs.foldl (fun t v => push8 v t) s)) (BitVec.ofNat 16 (0x0100 + s.sp.toNat)) = w) ∧
  (∀ (s : State) (v : Byte) (b : Word), ¬(0x0100 ≤ b.toNat ∧ b.toNat ≤ 0x01FF) →
    memRead (push8 v s) b = memRead s b) ∧
  ∀ s u : State, s.sp = u.sp →
    (∀ b : Word, 0x0100 ≤ b.toNat → b.toNat ≤ 0x01FF → memRead s b = memRead u b) → (pop8 s).1 = (pop8 u).1

/-- If JSR leads from s to t, and u is any later state with t's stack pointer and t's bytes at the two pushed addresses,
then RTS from u completes with the program counter at (A + 3) mod 65536 and the stack pointer of s, for every A and
every starting SP; the two bytes are the high byte and the low byte of the return address. (R194) -/
def Obligations.CallAndReturnRoundTrip : Prop :=
  ∀ (w : Word) (s t u : State), exec (.jsr w) s = .next t → u.sp = t.sp →
    memRead u (stackAddr s.sp) = memRead t (stackAddr s.sp) →
    memRead u (stackAddr (s.sp - 1)) = memRead t (stackAddr (s.sp - 1)) →
    (memRead u (stackAddr s.sp)).toNat = (s.pc.toNat + 3) % 65536 / 256 ∧
    (memRead u (stackAddr (s.sp - 1))).toNat = (s.pc.toNat + 3) % 65536 % 256 ∧
    ∃ v, exec .rts u = .next v ∧ v.pc.toNat = (s.pc.toNat + 3) % 65536 ∧ v.sp = s.sp

/-- Whatever the instruction, every address other than those it stores to (the effective address of STA, STX, STY, INC,
DEC and the memory shifts; the two pushed addresses of JSR; the pushed address of PHA; none for all the others)
reads after it as before. (R55, R29, R140, R170) -/
def Obligations.MemoryChangesOnlyWhereAnInstructionStores : Prop :=
  ∀ (i : Instr) (s t : State), exec i s = .next t → ∀ b : Word, b ∉ storedAddrs i s → memRead t b = memRead s b

/-- Whatever the instruction: A is unchanged unless it is LDA, ADC, SBC, AND, ORA, EOR, PLA or an accumulator shift or
rotate; X unless LDX, INX or DEX; Y unless LDY, INY or DEY; SP unless PHA, PLA, JSR or RTS. (R36, R21, R212) -/
def Obligations.RegistersAreWrittenOnlyByTheirInstructions : Prop :=
  ∀ (i : Instr) (s t : State), exec i s = .next t →
    (t.a ≠ s.a → i.handler ∈ [.lda, .adc, .sbc, .and, .ora, .eor, .pla] ∨
      (i.handler ∈ [.asl, .lsr, .rol, .ror] ∧ i.mode = .imp)) ∧
    (t.x ≠ s.x → i.handler ∈ [.ldx, .inx, .dex]) ∧
    (t.y ≠ s.y → i.handler ∈ [.ldy, .iny, .dey]) ∧
    (t.sp ≠ s.sp → i.handler ∈ [.pha, .pla, .jsr, .rts])

/-- Whatever the instruction: N and Z are unchanged unless it is a load, ADC, SBC, an increment or decrement, a logical
or compare instruction, a shift or rotate, or PLA; C unless ADC, SBC, a compare, a shift or rotate, CLC or SEC; V
unless ADC, SBC, a compare or CLV; D unless CLD or SED; I unless CLI or SEI; B never. (R26, R268, R256) -/
def Obligations.FlagsAreWrittenOnlyByTheirInstructions : Prop :=
  ∀ (i : Instr) (s t : State), exec i s = .next t →
    (t.flags.n ≠ s.flags.n ∨ t.flags.z ≠ s.flags.z →
      i.handler ∈ [.lda, .ldx, .ldy, .adc, .sbc, .inc, .dec, .inx, .iny, .dex, .dey, .and, .ora, .eor, .cmp, .cpx,
        .cpy, .asl, .lsr, .rol, .ror, .pla]) ∧
    (t.flags.c ≠ s.flags.c → i.handler ∈ [.adc, .sbc, .cmp, .cpx, .cpy, .asl, .lsr, .rol, .ror, .clc, .sec]) ∧
    (t.flags.v ≠ s.flags.v → i.handler ∈ [.adc, .sbc, .cmp, .cpx, .cpy, .clv]) ∧
    (t.flags.d ≠ s.flags.d → i.handler ∈ [.cld, .sed]) ∧
    (t.flags.i ≠ s.flags.i → i.handler ∈ [.cli, .sei]) ∧
    t.flags.b = s.flags.b

/-- From a Running state, a step leaves Running if and only if the byte at the program counter is 00, and then the halt
register is Halted(none), or one of the 117 invalid bytes, and then it is Halted(invalid-opcode, A0); otherwise the
unit is still Running. (R250, R257, R260) -/
def Obligations.OnlyHaltingInstructionsHalt : Prop :=
  ∀ s t : State, s.halt = .running → step s = .next t →
    (memRead s s.pc = 0x00#8 → t.halt = .halted .none) ∧
    (memRead s s.pc ∈ invalidBytes → t.halt = .halted (.invalidOpcode s.pc)) ∧
    (memRead s s.pc ≠ 0x00#8 → memRead s s.pc ∉ invalidBytes → t.halt = .running)

/-- Two states that agree on everything but the flags B, D and I step to states that again agree on everything but those
three flags: arithmetic is binary for both values of D, I masks nothing, and B is read by nothing. (R125, R256,
R268, R26) -/
def Obligations.DecimalInterruptAndBreakFlagsInfluenceNothing : Prop :=
  ∀ s s' t : State, SameButIdleFlags s s' → step s = .next t →
    ∃ t', step s' = .next t' ∧ SameButIdleFlags t t'

/-- A run with fuel k is k steps, each the single-step entry point, whatever the state; once a run has reached a Halted
state, a run with more fuel ends in that same state; and the host's Run answers the state the run ends in, with the
halt register's reason if it is Halted and outOfFuel if it is not. The fuel and the reply outOfFuel are the model's
choice, log entry 9 (DESIGN CHOICE, as U3 of spec/93_implementation_defined.md asks): the rules cited give the run
to a halt and the reason it ends with, not a run that stops short or that reply. (R224, R225, R226, R238, R269) -/
def Obligations.RunIsRepeatedSingleStep : Prop :=
  (∀ (k : Nat) (s : State), run k s = Host.Core.run Sys2Proof.core k s) ∧
  (∀ (k j : Nat) (s t : State), run k s = .next t → t.halt ≠ .running → run (k + j) s = .next t) ∧
  ∀ (m0 : Memory) (k : Nat) (s : State), ∃ t, run k s = .next t ∧
    (t.halt = .running → perform m0 (.run k) s = .next (.outOfFuel, t)) ∧
    ∀ reason : HaltReason, t.halt = .halted reason → perform m0 (.run k) s = .next (.stopped reason, t)

/-- In every state, Running or Halted: ReadByte returns the byte and changes nothing; WriteByte stores the byte and
changes no other byte, register, flag or the halt register; Snapshot returns the registers, flags and halt register
and changes nothing; Disassemble returns the lines of the memory and changes nothing; SingleStep is the step. (R240,
R241, R242, R243, R239, R228) -/
def Obligations.HostOperationsDoWhatTheyName : Prop :=
  ∀ (m0 : Memory) (s : State) (addr : Word) (v : Byte) (n : Fin 65537),
    perform m0 (.readByte addr) s = .next (.byte (memRead s addr), s) ∧
    (∃ t, perform m0 (.writeByte addr v) s = .next (.done, t) ∧ StoredOnly addr v s t ∧ t = { s with mem := t.mem }) ∧
    perform m0 .snapshot s = .next (.values ⟨s.a, s.x, s.y, s.sp, s.pc, s.flags, s.halt⟩, s) ∧
    perform m0 (.disassemble addr n) s = .next (.lines (disassemble s.mem addr n.val), s) ∧
    ∃ t, step s = .next t ∧ perform m0 .singleStep s = .next (.done, t)

/-- A range of length 0 gives no line; a longer one gives the line of the instruction at its start and then the lines of
the rest of the range after that instruction's bytes, addresses modulo 65536. The line at a holds a, the 1 +
OperandBytes(mode) bytes from a upward modulo 65536, the ROM entry's mnemonic, and the operand string of the mode.
(R229) -/
def Obligations.DisassemblerWalksInstructionByInstruction : Prop :=
  ∀ (m : Memory) (start : Word) (length : Nat),
    disassemble m start 0 = [] ∧
    (0 < length → disassemble m start length = lineAt m start ::
      disassemble m (start + BitVec.ofNat 16 (lineAt m start).bytes.length) (length - (lineAt m start).bytes.length)) ∧
    (lineAt m start).address = start ∧
    (lineAt m start).bytes = (List.range (1 + (oprom (m.read start.toNat)).mode.operandBytes)).map
      (fun k => m.read ((start.toNat + k) % 65536)) ∧
    (lineAt m start).mnemonic = (oprom (m.read start.toNat)).mnemonic ∧
    (lineAt m start).operand = operandString (oprom (m.read start.toNat)).mode start
      (m.read ((start.toNat + 1) % 65536)) (m.read ((start.toNat + 2) % 65536))

/-- The instructions of the spec's seven example lines, at their addresses, are rendered as those lines read, and so is
the disassembly of vector DV6, which has a line for each operand form: lower-case digits (HEX_UPPER at its default,
log entry 8), the bytes field padded to eight characters, a branch shown by its target, an invalid byte as ???.
(R232, R231, R233, R93) -/
def Obligations.DisassemblyTextMatchesTheExamples : Prop :=
  (lineAt [(0x0000, 0xA9#8)] 0x0000#16).text = "0000  a9 00     LDA #$00" ∧
  (lineAt [(0x0002, 0x20#8), (0x0003, 0x10#8)] 0x0002#16).text = "0002  20 10 00  JSR $0010" ∧
  (lineAt [(0x0009, 0xCA#8)] 0x0009#16).text = "0009  ca        DEX" ∧
  (lineAt [(0x000A, 0xD0#8), (0x000B, 0xF8#8)] 0x000A#16).text = "000a  d0 f8     BNE $0004" ∧
  (lineAt [(0x0015, 0x91#8), (0x0016, 0x36#8)] 0x0015#16).text = "0015  91 36     STA ($36), Y" ∧
  (lineAt [(0x001C, 0x6C#8), (0x001D, 0x38#8)] 0x001C#16).text = "001c  6c 38 00  JMP ($0038)" ∧
  (lineAt [(0x0022, 0x83#8)] 0x0022#16).text = "0022  83        ???" ∧
  (disassemble (loadBytes [0x0A#8, 0xA9#8, 0x0F#8, 0xA5#8, 0x80#8, 0xB5#8, 0x80#8, 0xB6#8, 0x80#8, 0xAD#8, 0x34#8,
      0x12#8, 0xBD#8, 0x34#8, 0x12#8, 0xB9#8, 0x34#8, 0x12#8, 0xA1#8, 0x80#8, 0xB1#8, 0x80#8, 0x6C#8, 0xFE#8, 0xCA#8,
      0xF0#8, 0xFE#8, 0x10#8, 0x7F#8, 0x30#8, 0x80#8, 0xEA#8, 0x00#8] 0x0300 []) 0x0300#16 33).map Line.text =
    ["0300  0a        ASL", "0301  a9 0f     LDA #$0f", "0303  a5 80     LDA $80", "0305  b5 80     LDA $80, X",
      "0307  b6 80     LDX $80, Y", "0309  ad 34 12  LDA $1234", "030c  bd 34 12  LDA $1234, X",
      "030f  b9 34 12  LDA $1234, Y", "0312  a1 80     LDA ($80, X)", "0314  b1 80     LDA ($80), Y",
      "0316  6c fe ca  JMP ($cafe)", "0319  f0 fe     BEQ $0319", "031b  10 7f     BPL $039c",
      "031d  30 80     BMI $029f", "031f  ea        ???", "0320  00        BRK"]

/-- For every address and operand bytes b1 and b2, the operand string of each mode is the one the table gives it, the
branch form showing (a + 2 + signed(b1)) mod 65536; hh is the two and hhhh the four hexadecimal digits of the value,
high digit first, in lower case (HEX_UPPER at its default, log entry 8). (R231) -/
def Obligations.OperandStringsFollowTheTable : Prop :=
  (∀ (a : Word) (b1 b2 : Byte),
    operandString .imp a b1 b2 = "" ∧ operandString .inv a b1 b2 = "" ∧
    operandString .imm a b1 b2 = "#$" ++ hexByte b1 ∧
    operandString .zp a b1 b2 = "$" ++ hexByte b1 ∧
    operandString .zpx a b1 b2 = "$" ++ hexByte b1 ++ ", X" ∧
    operandString .zpy a b1 b2 = "$" ++ hexByte b1 ++ ", Y" ∧
    operandString .abs a b1 b2 = "$" ++ hexWord (wordOf b2 b1) ∧
    operandString .absx a b1 b2 = "$" ++ hexWord (wordOf b2 b1) ++ ", X" ∧
    operandString .absy a b1 b2 = "$" ++ hexWord (wordOf b2 b1) ++ ", Y" ∧
    operandString .indx a b1 b2 = "($" ++ hexByte b1 ++ ", X)" ∧
    operandString .indy a b1 b2 = "($" ++ hexByte b1 ++ "), Y" ∧
    operandString .ind a b1 b2 = "($" ++ hexWord (wordOf b2 b1) ++ ")" ∧
    operandString .rel a b1 b2 = "$" ++ hexWord (branchTarget a b1) ∧
    (wordOf b2 b1).toNat = 256 * b2.toNat + b1.toNat ∧
    ((branchTarget a b1).toNat : Int) = (a.toNat + 2 + b1.toInt) % 65536) ∧
  (∀ v : Byte, (hexByte v).toList =
    [v.toNat / 16, v.toNat % 16].map (fun d => "0123456789abcdef".toList.getD d '?')) ∧
  ∀ w : Word, (hexWord w).toList =
    [w.toNat / 4096, w.toNat / 256 % 16, w.toNat / 16 % 16, w.toNat % 16].map
      (fun d => "0123456789abcdef".toList.getD d '?')
end

