-- ==== Sys2Proof/Laws/State.lean ====
section
/-! SUPPORT. What each register update leaves: one lemma per field and update, so that no proof unfolds a record. -/

namespace Sys2Proof.Machine

@[simp] theorem State.setA_a (v : Byte) (s : State) : (s.setA v).a = v := rfl
@[simp] theorem State.setA_x (v : Byte) (s : State) : (s.setA v).x = s.x := rfl
@[simp] theorem State.setA_y (v : Byte) (s : State) : (s.setA v).y = s.y := rfl
@[simp] theorem State.setA_sp (v : Byte) (s : State) : (s.setA v).sp = s.sp := rfl
@[simp] theorem State.setA_pc (v : Byte) (s : State) : (s.setA v).pc = s.pc := rfl
@[simp] theorem State.setA_flags (v : Byte) (s : State) : (s.setA v).flags = s.flags := rfl
@[simp] theorem State.setA_halt (v : Byte) (s : State) : (s.setA v).halt = s.halt := rfl
@[simp] theorem State.setA_mem (v : Byte) (s : State) : (s.setA v).mem = s.mem := rfl

@[simp] theorem State.setX_a (v : Byte) (s : State) : (s.setX v).a = s.a := rfl
@[simp] theorem State.setX_x (v : Byte) (s : State) : (s.setX v).x = v := rfl
@[simp] theorem State.setX_y (v : Byte) (s : State) : (s.setX v).y = s.y := rfl
@[simp] theorem State.setX_sp (v : Byte) (s : State) : (s.setX v).sp = s.sp := rfl
@[simp] theorem State.setX_pc (v : Byte) (s : State) : (s.setX v).pc = s.pc := rfl
@[simp] theorem State.setX_flags (v : Byte) (s : State) : (s.setX v).flags = s.flags := rfl
@[simp] theorem State.setX_halt (v : Byte) (s : State) : (s.setX v).halt = s.halt := rfl
@[simp] theorem State.setX_mem (v : Byte) (s : State) : (s.setX v).mem = s.mem := rfl

@[simp] theorem State.setY_a (v : Byte) (s : State) : (s.setY v).a = s.a := rfl
@[simp] theorem State.setY_x (v : Byte) (s : State) : (s.setY v).x = s.x := rfl
@[simp] theorem State.setY_y (v : Byte) (s : State) : (s.setY v).y = v := rfl
@[simp] theorem State.setY_sp (v : Byte) (s : State) : (s.setY v).sp = s.sp := rfl
@[simp] theorem State.setY_pc (v : Byte) (s : State) : (s.setY v).pc = s.pc := rfl
@[simp] theorem State.setY_flags (v : Byte) (s : State) : (s.setY v).flags = s.flags := rfl
@[simp] theorem State.setY_halt (v : Byte) (s : State) : (s.setY v).halt = s.halt := rfl
@[simp] theorem State.setY_mem (v : Byte) (s : State) : (s.setY v).mem = s.mem := rfl

@[simp] theorem State.setSp_a (v : Byte) (s : State) : (s.setSp v).a = s.a := rfl
@[simp] theorem State.setSp_x (v : Byte) (s : State) : (s.setSp v).x = s.x := rfl
@[simp] theorem State.setSp_y (v : Byte) (s : State) : (s.setSp v).y = s.y := rfl
@[simp] theorem State.setSp_sp (v : Byte) (s : State) : (s.setSp v).sp = v := rfl
@[simp] theorem State.setSp_pc (v : Byte) (s : State) : (s.setSp v).pc = s.pc := rfl
@[simp] theorem State.setSp_flags (v : Byte) (s : State) : (s.setSp v).flags = s.flags := rfl
@[simp] theorem State.setSp_halt (v : Byte) (s : State) : (s.setSp v).halt = s.halt := rfl
@[simp] theorem State.setSp_mem (v : Byte) (s : State) : (s.setSp v).mem = s.mem := rfl

@[simp] theorem State.setPc_a (v : Word) (s : State) : (s.setPc v).a = s.a := rfl
@[simp] theorem State.setPc_x (v : Word) (s : State) : (s.setPc v).x = s.x := rfl
@[simp] theorem State.setPc_y (v : Word) (s : State) : (s.setPc v).y = s.y := rfl
@[simp] theorem State.setPc_sp (v : Word) (s : State) : (s.setPc v).sp = s.sp := rfl
@[simp] theorem State.setPc_pc (v : Word) (s : State) : (s.setPc v).pc = v := rfl
@[simp] theorem State.setPc_flags (v : Word) (s : State) : (s.setPc v).flags = s.flags := rfl
@[simp] theorem State.setPc_halt (v : Word) (s : State) : (s.setPc v).halt = s.halt := rfl
@[simp] theorem State.setPc_mem (v : Word) (s : State) : (s.setPc v).mem = s.mem := rfl

@[simp] theorem State.setFlags_a (v : Flags) (s : State) : (s.setFlags v).a = s.a := rfl
@[simp] theorem State.setFlags_x (v : Flags) (s : State) : (s.setFlags v).x = s.x := rfl
@[simp] theorem State.setFlags_y (v : Flags) (s : State) : (s.setFlags v).y = s.y := rfl
@[simp] theorem State.setFlags_sp (v : Flags) (s : State) : (s.setFlags v).sp = s.sp := rfl
@[simp] theorem State.setFlags_pc (v : Flags) (s : State) : (s.setFlags v).pc = s.pc := rfl
@[simp] theorem State.setFlags_flags (v : Flags) (s : State) : (s.setFlags v).flags = v := rfl
@[simp] theorem State.setFlags_halt (v : Flags) (s : State) : (s.setFlags v).halt = s.halt := rfl
@[simp] theorem State.setFlags_mem (v : Flags) (s : State) : (s.setFlags v).mem = s.mem := rfl

@[simp] theorem State.setHalt_a (v : Halt) (s : State) : (s.setHalt v).a = s.a := rfl
@[simp] theorem State.setHalt_x (v : Halt) (s : State) : (s.setHalt v).x = s.x := rfl
@[simp] theorem State.setHalt_y (v : Halt) (s : State) : (s.setHalt v).y = s.y := rfl
@[simp] theorem State.setHalt_sp (v : Halt) (s : State) : (s.setHalt v).sp = s.sp := rfl
@[simp] theorem State.setHalt_pc (v : Halt) (s : State) : (s.setHalt v).pc = s.pc := rfl
@[simp] theorem State.setHalt_flags (v : Halt) (s : State) : (s.setHalt v).flags = s.flags := rfl
@[simp] theorem State.setHalt_halt (v : Halt) (s : State) : (s.setHalt v).halt = v := rfl
@[simp] theorem State.setHalt_mem (v : Halt) (s : State) : (s.setHalt v).mem = s.mem := rfl

@[simp] theorem State.setMem_a (v : Memory) (s : State) : (s.setMem v).a = s.a := rfl
@[simp] theorem State.setMem_x (v : Memory) (s : State) : (s.setMem v).x = s.x := rfl
@[simp] theorem State.setMem_y (v : Memory) (s : State) : (s.setMem v).y = s.y := rfl
@[simp] theorem State.setMem_sp (v : Memory) (s : State) : (s.setMem v).sp = s.sp := rfl
@[simp] theorem State.setMem_pc (v : Memory) (s : State) : (s.setMem v).pc = s.pc := rfl
@[simp] theorem State.setMem_flags (v : Memory) (s : State) : (s.setMem v).flags = s.flags := rfl
@[simp] theorem State.setMem_halt (v : Memory) (s : State) : (s.setMem v).halt = s.halt := rfl
@[simp] theorem State.setMem_mem (v : Memory) (s : State) : (s.setMem v).mem = v := rfl

@[simp] theorem State.resetTo_a (m0 : Memory) : (State.resetTo m0).a = 0x00#8 := rfl
@[simp] theorem State.resetTo_x (m0 : Memory) : (State.resetTo m0).x = 0x00#8 := rfl
@[simp] theorem State.resetTo_y (m0 : Memory) : (State.resetTo m0).y = 0x00#8 := rfl
@[simp] theorem State.resetTo_sp (m0 : Memory) : (State.resetTo m0).sp = Config.resetSp := rfl
@[simp] theorem State.resetTo_pc (m0 : Memory) : (State.resetTo m0).pc = Config.resetPc := rfl
@[simp] theorem State.resetTo_flags (m0 : Memory) : (State.resetTo m0).flags = Flags.reset := rfl
@[simp] theorem State.resetTo_halt (m0 : Memory) : (State.resetTo m0).halt = .running := rfl
@[simp] theorem State.resetTo_mem (m0 : Memory) : (State.resetTo m0).mem = m0 := rfl

end Sys2Proof.Machine
end

