-- ==== Sys2Proof/Laws/Words.lean ====
section
/-! SUPPORT. The bit-field and byte-order helpers as arithmetic on natural numbers. -/

namespace Sys2Proof

theorem wordOf_toNat (hi lo : Byte) : (wordOf hi lo).toNat = 256 * hi.toNat + lo.toNat := by
  simp only [wordOf, BitVec.toNat_ofNat]; omega

theorem hiByte_toNat (w : Word) : (hiByte w).toNat = w.toNat / 256 := by
  simp only [hiByte, BitVec.toNat_ofNat]; omega

theorem loByte_toNat (w : Word) : (loByte w).toNat = w.toNat % 256 := by
  simp only [loByte, BitVec.toNat_ofNat]; omega

theorem zext16_toNat (v : Byte) : (zext16 v).toNat = v.toNat := by
  simp only [zext16, BitVec.toNat_ofNat]; omega

/-- The two bytes of a word form it again: what JSR pushes, RTS reads. -/
@[simp] theorem wordOf_hiByte_loByte (w : Word) : wordOf (hiByte w) (loByte w) = w := by
  apply BitVec.eq_of_toNat_eq
  rw [wordOf_toNat, hiByte_toNat, loByte_toNat]; omega

@[simp] theorem hiByte_wordOf (hi lo : Byte) : hiByte (wordOf hi lo) = hi := by
  apply BitVec.eq_of_toNat_eq
  rw [hiByte_toNat, wordOf_toNat]; omega

@[simp] theorem loByte_wordOf (hi lo : Byte) : loByte (wordOf hi lo) = lo := by
  apply BitVec.eq_of_toNat_eq
  rw [loByte_toNat, wordOf_toNat]; omega

/-- Sign extension (R12): modulo 65536 the word is the signed value of the byte. -/
theorem sext16_toInt (v : Byte) : ((sext16 v).toNat : Int) = v.toInt % 65536 := by
  have h := BitVec.toInt_eq_toNat_cond v
  unfold sext16
  split <;> simp only [BitVec.toNat_ofNat] <;> split at h <;> omega

end Sys2Proof
end

