-- ==== Sys2Proof/Laws/Memory.lean ====
section
/-! SUPPORT. The laws of memory: a byte reads as last written, other bytes are untouched (for every list of cells,
canonical or not), and every write keeps the canonical form. -/

namespace Sys2Proof.Machine

/-! ## Reads -/

theorem Memory.read_clear_same (m : Memory) (a : Nat) : (m.clear a).read a = unlistedByte := by
  induction m with
  | nil => rfl
  | cons c m ih =>
    obtain ⟨k, v⟩ := c
    by_cases h : k = a <;> simp [Memory.clear, Memory.read, h, ih]

theorem Memory.read_clear_other (m : Memory) {a b : Nat} (hb : b ≠ a) : (m.clear a).read b = m.read b := by
  induction m with
  | nil => rfl
  | cons c m ih =>
    obtain ⟨k, v⟩ := c
    by_cases h : k = a
    · have : k ≠ b := by omega
      simp [Memory.clear, Memory.read, h, ih, hb.symm]
    · by_cases hk : k = b <;> simp [Memory.clear, Memory.read, h, hk, hb, ih]

theorem Memory.read_place_other (m : Memory) {a b : Nat} (v : Byte) (hb : b ≠ a) :
    (m.place a v).read b = m.read b := by
  induction m with
  | nil => simp [Memory.place, Memory.read, hb.symm]
  | cons c m ih =>
    obtain ⟨k, w⟩ := c
    by_cases h : a < k
    · simp [Memory.place, Memory.read, h, hb.symm]
    · simp [Memory.place, Memory.read, h, ih]

/-- The placed byte is the one read, where the address was not listed before. -/
theorem Memory.read_place_clear (m : Memory) (a : Nat) (v : Byte) : ((m.clear a).place a v).read a = v := by
  induction m with
  | nil => simp [Memory.clear, Memory.place, Memory.read]
  | cons c m ih =>
    obtain ⟨k, w⟩ := c
    by_cases h : k = a
    · simpa [Memory.clear, h] using ih
    · by_cases hk : a < k <;> simp [Memory.clear, Memory.place, Memory.read, h, hk, ih]

/-- A byte reads as last written. -/
theorem Memory.read_write_same (m : Memory) (a : Nat) (v : Byte) : (m.write a v).read a = v := by
  unfold Memory.write
  split
  · next h => rw [Memory.read_clear_same, h]
  · exact Memory.read_place_clear m a v

/-- A write leaves every other byte alone. -/
theorem Memory.read_write_other (m : Memory) {a b : Nat} (v : Byte) (hb : b ≠ a) :
    (m.write a v).read b = m.read b := by
  unfold Memory.write
  split
  · exact Memory.read_clear_other m hb
  · rw [Memory.read_place_other _ _ hb, Memory.read_clear_other m hb]

/-! ## The canonical form -/

theorem Memory.wfAbove_mono {low low' : Nat} {m : Memory} (hl : low' ≤ low) (h : Memory.wfAbove low m = true) :
    Memory.wfAbove low' m = true := by
  cases m with
  | nil => rfl
  | cons c m =>
    obtain ⟨k, v⟩ := c
    simp only [Memory.wfAbove, Bool.and_eq_true, decide_eq_true_eq] at h ⊢
    exact ⟨⟨⟨by omega, h.1.1.2⟩, h.1.2⟩, h.2⟩

theorem Memory.wfAbove_clear {low : Nat} {m : Memory} (a : Nat) (h : Memory.wfAbove low m = true) :
    Memory.wfAbove low (m.clear a) = true := by
  induction m generalizing low with
  | nil => rfl
  | cons c m ih =>
    obtain ⟨k, v⟩ := c
    simp only [Memory.wfAbove, Bool.and_eq_true, decide_eq_true_eq] at h
    have hk := ih h.2
    by_cases hka : k = a
    · simpa [Memory.clear, hka] using Memory.wfAbove_mono (by omega) hk
    · simp only [Memory.clear, hka, if_false, Memory.wfAbove, Bool.and_eq_true, decide_eq_true_eq]
      exact ⟨h.1, hk⟩

/-- A cleared address is not listed, so below the new entry every address is smaller and above it every one larger. -/
theorem Memory.wfAbove_place_clear {low : Nat} {m : Memory} {a : Nat} {v : Byte} (ha : a < Config.memorySize)
    (hv : v ≠ unlistedByte) (hl : low ≤ a) (h : Memory.wfAbove low m = true) :
    Memory.wfAbove low ((m.clear a).place a v) = true := by
  induction m generalizing low with
  | nil => simp [Memory.clear, Memory.place, Memory.wfAbove, hl, ha, hv]
  | cons c m ih =>
    obtain ⟨k, w⟩ := c
    simp only [Memory.wfAbove, Bool.and_eq_true, decide_eq_true_eq] at h
    by_cases hka : k = a
    · subst hka
      simp only [Memory.clear, if_true]
      have hm := Memory.wfAbove_clear k h.2
      cases hme : Memory.clear m k with
      | nil => simp [Memory.place, Memory.wfAbove, hl, ha, hv]
      | cons d m' =>
        obtain ⟨k', w'⟩ := d
        rw [hme] at hm
        have hk' := hm
        simp only [Memory.wfAbove, Bool.and_eq_true, decide_eq_true_eq] at hk'
        have hlt : k < k' := by omega
        simp only [Memory.place, hlt, if_true, Memory.wfAbove, Bool.and_eq_true, decide_eq_true_eq]
        simp only [hl, ha, bne_iff_ne, ne_eq, hv, not_false_eq_true, and_self, true_and]
        simpa using hk'
    · simp only [Memory.clear, hka, if_false]
      by_cases hak : a < k
      · have hm := Memory.wfAbove_clear a h.2
        simp only [Memory.place, hak, if_true, Memory.wfAbove, Bool.and_eq_true, decide_eq_true_eq]
        simp only [hl, ha, bne_iff_ne, ne_eq, hv, not_false_eq_true, and_self, true_and]
        refine ⟨⟨⟨by omega, h.1.1.2⟩, ?_⟩, hm⟩
        simpa using h.1.2
      · simp only [Memory.place, hak, if_false, Memory.wfAbove, Bool.and_eq_true, decide_eq_true_eq]
        exact ⟨h.1, ih (by omega) h.2⟩

/-- Every write inside the address space keeps the canonical form. -/
theorem Memory.wf_write {m : Memory} {a : Nat} (v : Byte) (ha : a < Config.memorySize) (h : m.wf = true) :
    (m.write a v).wf = true := by
  unfold Memory.write Memory.wf at *
  split
  · exact Memory.wfAbove_clear a h
  · next hv => exact Memory.wfAbove_place_clear ha hv (Nat.zero_le a) h

/-! ## Reads and writes of the machine -/

@[simp] theorem memRead_memWrite_same (s : State) (addr : Word) (v : Byte) : memRead (memWrite addr v s) addr = v :=
  Memory.read_write_same s.mem addr.toNat v

theorem memRead_memWrite_other (s : State) {addr b : Word} (v : Byte) (hb : b ≠ addr) :
    memRead (memWrite addr v s) b = memRead s b :=
  Memory.read_write_other s.mem v (fun h => hb (BitVec.eq_of_toNat_eq h))

/-- Every write of the machine keeps the canonical form: an address has 16 bits. -/
theorem wf_memWrite (s : State) (addr : Word) (v : Byte) (h : s.mem.wf = true) :
    (memWrite addr v s).mem.wf = true :=
  Memory.wf_write v addr.isLt h

@[simp] theorem memWrite_a (addr : Word) (v : Byte) (s : State) : (memWrite addr v s).a = s.a := rfl
@[simp] theorem memWrite_x (addr : Word) (v : Byte) (s : State) : (memWrite addr v s).x = s.x := rfl
@[simp] theorem memWrite_y (addr : Word) (v : Byte) (s : State) : (memWrite addr v s).y = s.y := rfl
@[simp] theorem memWrite_sp (addr : Word) (v : Byte) (s : State) : (memWrite addr v s).sp = s.sp := rfl
@[simp] theorem memWrite_pc (addr : Word) (v : Byte) (s : State) : (memWrite addr v s).pc = s.pc := rfl
@[simp] theorem memWrite_flags (addr : Word) (v : Byte) (s : State) : (memWrite addr v s).flags = s.flags := rfl
@[simp] theorem memWrite_halt (addr : Word) (v : Byte) (s : State) : (memWrite addr v s).halt = s.halt := rfl

/-- A read looks at memory alone. -/
theorem memRead_congr {s t : State} (h : t.mem = s.mem) (a : Word) : memRead t a = memRead s a := by
  unfold memRead; rw [h]

end Sys2Proof.Machine
end

