-- ==== Sys2Proof/Laws/Opcodes.lean ====
section
/-! SUPPORT. The two views of the opcode map, by mnemonic and mode (R86) and by opcode byte (R88), are inverse to each
other. -/

namespace Sys2Proof

/-- The ROM entry of the byte the first view gives a pair, if it gives one, is that pair. -/
def agreesWithRom (h : Handler) (m : Mode) : Bool :=
  match opcodeByte h m with
  | some op => oprom op == ⟨h, m⟩
  | none => true

theorem agreesWithRom_true (h : Handler) (m : Mode) : agreesWithRom h m = true := by
  cases h <;> cases m <;> rfl

/-- A byte of the map by mnemonic and mode has that handler and mode in the map by byte. -/
theorem oprom_of_opcodeByte {h : Handler} {m : Mode} {op : Byte} (ho : opcodeByte h m = some op) :
    oprom op = ⟨h, m⟩ := by
  have := agreesWithRom_true h m
  rw [agreesWithRom, ho] at this
  exact eq_of_beq this

/-- A valid byte is the one the map by mnemonic and mode gives its handler and mode. -/
theorem opcodeByte_of_oprom : ∀ op : Byte, (oprom op).handler ≠ .invalid →
    opcodeByte (oprom op).handler (oprom op).mode = some op := by decide

/-- No pair with the invalid-opcode handler has a byte in the map by mnemonic and mode. -/
theorem opcodeByte_invalid (m : Mode) : opcodeByte .invalid m = none := by cases m <;> rfl

end Sys2Proof
end

