-- ==== Sys2Proof/Laws/Ops.lean ====
section
/-! SUPPORT. What each shared operation does, said once: the primitives of Ops.lean, and the shared bodies of the
families as record updates of the state they start from. -/

namespace Sys2Proof.Machine

/-! ## The instruction stream -/

/-- Fetching moves the program counter and changes nothing else. -/
theorem fetched_eq (mode : Mode) (s : State) :
    fetched mode s = { s with pc := s.pc + BitVec.ofNat 16 (1 + mode.operandBytes) } := rfl

@[simp] theorem fetched_a (mode : Mode) (s : State) : (fetched mode s).a = s.a := rfl
@[simp] theorem fetched_x (mode : Mode) (s : State) : (fetched mode s).x = s.x := rfl
@[simp] theorem fetched_y (mode : Mode) (s : State) : (fetched mode s).y = s.y := rfl
@[simp] theorem fetched_sp (mode : Mode) (s : State) : (fetched mode s).sp = s.sp := rfl
@[simp] theorem fetched_flags (mode : Mode) (s : State) : (fetched mode s).flags = s.flags := rfl
@[simp] theorem fetched_halt (mode : Mode) (s : State) : (fetched mode s).halt = s.halt := rfl
@[simp] theorem fetched_mem (mode : Mode) (s : State) : (fetched mode s).mem = s.mem := rfl

theorem operandBytes_le_two (mode : Mode) : mode.operandBytes ≤ 2 := by cases mode <;> decide

theorem fetched_pc_toNat (mode : Mode) (s : State) :
    (fetched mode s).pc.toNat = (s.pc.toNat + (1 + mode.operandBytes)) % 65536 := by
  have h := operandBytes_le_two mode
  simp only [fetched, State.setPc_pc, BitVec.toNat_add, BitVec.toNat_ofNat]; omega

/-! ## The stack -/

theorem stackAddr_toNat (sp : Byte) : (stackAddr sp).toNat = 0x0100 + sp.toNat := by
  simp only [stackAddr, BitVec.toNat_ofNat]; omega

theorem stackAddr_inj {p q : Byte} : stackAddr p = stackAddr q ↔ p = q := by
  constructor
  · intro h
    have := congrArg BitVec.toNat h
    rw [stackAddr_toNat, stackAddr_toNat] at this
    exact BitVec.eq_of_toNat_eq (by omega)
  · rintro rfl; rfl

/-- Push8 (R27): one byte and the stack pointer, nothing else. -/
theorem push8_eq (v : Byte) (s : State) :
    push8 v s = { s with sp := s.sp - 1, mem := s.mem.write (stackAddr s.sp).toNat v } := rfl

theorem memRead_push8_same (v : Byte) (s : State) : memRead (push8 v s) (stackAddr s.sp) = v :=
  Memory.read_write_same s.mem _ v

theorem memRead_push8_other (v : Byte) (s : State) {b : Word} (hb : b ≠ stackAddr s.sp) :
    memRead (push8 v s) b = memRead s b :=
  memRead_memWrite_other s v hb

/-- Pop8 (R28): the byte above, and the stack pointer raised. -/
theorem pop8_eq (s : State) : pop8 s = (memRead s (stackAddr (s.sp + 1)), { s with sp := s.sp + 1 }) := rfl

/-! ## The halting events -/

/-- Raising writes the halt register alone (R251, R252, R258). -/
theorem raise_eq (reason : HaltReason) (s : State) : raise reason s = { s with halt := .halted reason } := rfl

/-! ## The shared bodies of the families -/

theorem store_eq (v : Byte) (dst : AddrOperand) (s : State) :
    store v dst s = { s with pc := (fetched dst.mode s).pc, mem := s.mem.write (resolveAddr dst s).toNat v } := rfl

theorem addSub_eq (alu : Byte → Byte → Bool → AluResult) (src : ValueOperand) (s : State) :
    addSub alu src s = { s with
      a := (alu s.a (resolveValue src s) s.flags.c).r
      pc := (fetched src.mode s).pc
      flags := setCVNZ (alu s.a (resolveValue src s) s.flags.c) s.flags } := rfl

theorem modifyMem_eq (f : Byte → Byte) (dst : AddrOperand) (s : State) :
    modifyMem f dst s = { s with
      pc := (fetched dst.mode s).pc
      mem := s.mem.write (resolveAddr dst s).toNat (f (memRead s (resolveAddr dst s)))
      flags := setNZ (f (memRead s (resolveAddr dst s))) s.flags } := rfl

theorem logical_eq (op : Byte → Byte → Byte) (src : ValueOperand) (s : State) :
    logical op src s = { s with
      a := op s.a (resolveValue src s)
      pc := (fetched src.mode s).pc
      flags := setNZ (op s.a (resolveValue src s)) s.flags } := rfl

theorem compareReg_eq (reg : Byte) (src : ValueOperand) (s : State) :
    compareReg reg src s = { s with
      pc := (fetched src.mode s).pc
      flags := compareFlags reg (resolveValue src s) s.flags } := rfl

theorem shiftRotate_acc (kind : ShiftKind) (s : State) :
    shiftRotate kind .acc s = { s with
      a := (shift kind s.a s.flags.c).1
      pc := (fetched .imp s).pc
      flags := setShiftFlags (shift kind s.a s.flags.c).1 (shift kind s.a s.flags.c).2 s.flags } := rfl

theorem shiftRotate_mem (kind : ShiftKind) (m : AddrOperand) (s : State) :
    shiftRotate kind (.mem m) s = { s with
      pc := (fetched m.mode s).pc
      mem := s.mem.write (resolveAddr m s).toNat (shift kind (memRead s (resolveAddr m s)) s.flags.c).1
      flags := setShiftFlags (shift kind (memRead s (resolveAddr m s)) s.flags.c).1
        (shift kind (memRead s (resolveAddr m s)) s.flags.c).2 s.flags } := rfl

theorem branch_eq (cond : Bool) (rel8 : Byte) (s : State) :
    branch cond rel8 s =
      { s with pc := if cond then (fetched .rel s).pc + sext16 rel8 else (fetched .rel s).pc } := rfl

theorem flagOp_eq (f : Flags) (s : State) : flagOp f s = { s with pc := (fetched .imp s).pc, flags := f } := rfl

/-! ## The flag computations -/

@[simp] theorem setNZ_n (v : Byte) (f : Flags) : (setNZ v f).n = v.msb := rfl
@[simp] theorem setNZ_z (v : Byte) (f : Flags) : (setNZ v f).z = (v == 0#8) := rfl
@[simp] theorem setNZ_v (v : Byte) (f : Flags) : (setNZ v f).v = f.v := rfl
@[simp] theorem setNZ_b (v : Byte) (f : Flags) : (setNZ v f).b = f.b := rfl
@[simp] theorem setNZ_d (v : Byte) (f : Flags) : (setNZ v f).d = f.d := rfl
@[simp] theorem setNZ_i (v : Byte) (f : Flags) : (setNZ v f).i = f.i := rfl
@[simp] theorem setNZ_c (v : Byte) (f : Flags) : (setNZ v f).c = f.c := rfl

theorem msb_iff (v : Byte) : v.msb = true ↔ 128 ≤ v.toNat := by
  simp [BitVec.msb_eq_decide]

theorem beq_zero_iff (v : Byte) : (v == 0#8) = true ↔ v.toNat = 0 := by
  rw [beq_iff_eq, BitVec.toNat_eq]; rfl

/-- A byte is not both negative and zero, so N and Z are never both written (R120). -/
theorem not_msb_and_zero (v : Byte) : ¬(v.msb = true ∧ (v == 0#8) = true) := by
  rw [msb_iff, beq_zero_iff]; omega

end Sys2Proof.Machine
end

