-- ==== Sys2Proof/Laws/PerInstr.lean ====
section
/-! SUPPORT. Facts about each instruction as syntax, one lemma per constructor. -/

namespace Sys2Proof.Laws.EncodedLength

/-- A well-formed instruction is encoded in as many bytes as its mode says: 1 to 3 (R80, R89). -/
def Statement (i : Instr) : Prop :=
  i.wellFormed = true → (encode i).length = i.length ∧ 1 ≤ i.length ∧ i.length ≤ 3

theorem addr_bytes (m : AddrOperand) : m.bytes.length = m.mode.operandBytes := by
  cases m <;> rfl

theorem value_bytes (v : ValueOperand) : v.bytes.length = v.mode.operandBytes := by
  cases v with
  | imm => rfl
  | mem m => exact addr_bytes m

theorem shift_bytes (o : ShiftOperand) : o.bytes.length = o.mode.operandBytes := by
  cases o with
  | acc => rfl
  | mem m => exact addr_bytes m

/-- Every mode a handler is offered in has an opcode byte: the table of modes and the table of bytes agree (R86). -/
theorem opcodeByte_isSome (h : Handler) (m : Mode) (hm : h ≠ .invalid) (hc : h.modes.contains m = true) :
    (opcodeByte h m).isSome = true := by
  cases h <;> cases m <;> first | rfl | exact absurd hc (by decide) | exact absurd rfl hm

/-- The statement of an instruction that is not an invalid opcode, from the number of its operand bytes. -/
theorem of_operand (i : Instr) (hop : ∀ op, i ≠ .invalid op) (hl : i.operand.length = i.mode.operandBytes) :
    Statement i := by
  intro hw
  have h2 : i.mode.operandBytes ≤ 2 := by cases i.mode <;> decide
  have hc : i.handler.modes.contains i.mode = true := by
    simp only [Instr.wellFormed, Bool.and_eq_true] at hw
    exact hw.1
  have hs := opcodeByte_isSome i.handler i.mode (by cases i <;> simp_all [Instr.handler]) hc
  have ho : i.opcode = opcodeByte i.handler i.mode := by
    cases i <;> first | rfl | exact absurd rfl (hop _)
  obtain ⟨op, hsome⟩ := Option.isSome_iff_exists.mp hs
  refine ⟨?_, ?_, ?_⟩ <;> simp only [encode, ho, hsome, Instr.length, List.length_cons, hl] <;> omega

theorem lda (v : ValueOperand) : Statement (.lda v) := of_operand _ (by simp) (value_bytes v)
theorem ldx (v : ValueOperand) : Statement (.ldx v) := of_operand _ (by simp) (value_bytes v)
theorem ldy (v : ValueOperand) : Statement (.ldy v) := of_operand _ (by simp) (value_bytes v)
theorem sta (m : AddrOperand) : Statement (.sta m) := of_operand _ (by simp) (addr_bytes m)
theorem stx (m : AddrOperand) : Statement (.stx m) := of_operand _ (by simp) (addr_bytes m)
theorem sty (m : AddrOperand) : Statement (.sty m) := of_operand _ (by simp) (addr_bytes m)
theorem adc (v : ValueOperand) : Statement (.adc v) := of_operand _ (by simp) (value_bytes v)
theorem sbc (v : ValueOperand) : Statement (.sbc v) := of_operand _ (by simp) (value_bytes v)
theorem inc (m : AddrOperand) : Statement (.inc m) := of_operand _ (by simp) (addr_bytes m)
theorem dec (m : AddrOperand) : Statement (.dec m) := of_operand _ (by simp) (addr_bytes m)
theorem inx : Statement .inx := of_operand _ (by simp) rfl
theorem iny : Statement .iny := of_operand _ (by simp) rfl
theorem dex : Statement .dex := of_operand _ (by simp) rfl
theorem dey : Statement .dey := of_operand _ (by simp) rfl
theorem and (v : ValueOperand) : Statement (.and v) := of_operand _ (by simp) (value_bytes v)
theorem ora (v : ValueOperand) : Statement (.ora v) := of_operand _ (by simp) (value_bytes v)
theorem eor (v : ValueOperand) : Statement (.eor v) := of_operand _ (by simp) (value_bytes v)
theorem cmp (v : ValueOperand) : Statement (.cmp v) := of_operand _ (by simp) (value_bytes v)
theorem cpx (v : ValueOperand) : Statement (.cpx v) := of_operand _ (by simp) (value_bytes v)
theorem cpy (v : ValueOperand) : Statement (.cpy v) := of_operand _ (by simp) (value_bytes v)
theorem asl (o : ShiftOperand) : Statement (.asl o) := of_operand _ (by simp) (shift_bytes o)
theorem lsr (o : ShiftOperand) : Statement (.lsr o) := of_operand _ (by simp) (shift_bytes o)
theorem rol (o : ShiftOperand) : Statement (.rol o) := of_operand _ (by simp) (shift_bytes o)
theorem ror (o : ShiftOperand) : Statement (.ror o) := of_operand _ (by simp) (shift_bytes o)
theorem bpl (w : Byte) : Statement (.bpl w) := of_operand _ (by simp) rfl
theorem bmi (w : Byte) : Statement (.bmi w) := of_operand _ (by simp) rfl
theorem bvc (w : Byte) : Statement (.bvc w) := of_operand _ (by simp) rfl
theorem bvs (w : Byte) : Statement (.bvs w) := of_operand _ (by simp) rfl
theorem bcc (w : Byte) : Statement (.bcc w) := of_operand _ (by simp) rfl
theorem bcs (w : Byte) : Statement (.bcs w) := of_operand _ (by simp) rfl
theorem bne (w : Byte) : Statement (.bne w) := of_operand _ (by simp) rfl
theorem beq (w : Byte) : Statement (.beq w) := of_operand _ (by simp) rfl
theorem jmpAbs (w : Word) : Statement (.jmpAbs w) := of_operand _ (by simp) rfl
theorem jmpInd (w : Word) : Statement (.jmpInd w) := of_operand _ (by simp) rfl
theorem jsr (w : Word) : Statement (.jsr w) := of_operand _ (by simp) rfl
theorem rts : Statement .rts := of_operand _ (by simp) rfl
theorem clc : Statement .clc := of_operand _ (by simp) rfl
theorem sec : Statement .sec := of_operand _ (by simp) rfl
theorem cli : Statement .cli := of_operand _ (by simp) rfl
theorem sei : Statement .sei := of_operand _ (by simp) rfl
theorem clv : Statement .clv := of_operand _ (by simp) rfl
theorem cld : Statement .cld := of_operand _ (by simp) rfl
theorem sed : Statement .sed := of_operand _ (by simp) rfl
theorem pha : Statement .pha := of_operand _ (by simp) rfl
theorem pla : Statement .pla := of_operand _ (by simp) rfl
theorem brk : Statement .brk := of_operand _ (by simp) rfl
theorem invalid (op : Byte) : Statement (.invalid op) := fun _ => ⟨rfl, Nat.le_refl 1, Nat.le_succ_of_le (Nat.le_succ 1)⟩

end Sys2Proof.Laws.EncodedLength
end

