-- ==== Sys2Proof/Tests/Slice0.lean ====
section
/-! SUPPORT. The model's own tests: ill-formed terms the check refuses, words written out from the encoding tables of
spec/30_encoding.md, single steps of spec/95_test_vectors.md (each test names its vector), and for every statement of
Certificates/Slice0/Obligations.lean that has hypotheses a concrete case that meets them. -/

namespace Sys2Proof.Tests

open Sys2Proof Sys2Proof.Machine

/-! ## Well-formedness -/

/-- A mode R86 does not offer for the mnemonic is ill formed, however good the operand is. -/
theorem test_lda_zpy_is_ill_formed : (Instr.lda (.mem (.zpy 0x05#8))).wellFormed = false := by decide
theorem test_ldx_zpx_is_ill_formed : (Instr.ldx (.mem (.zpx 0x05#8))).wellFormed = false := by decide
theorem test_sta_ind_is_ill_formed : (Instr.sta (.ind 0x0038#16)).wellFormed = false := by decide
theorem test_stx_absy_is_ill_formed : (Instr.stx (.absy 0x1234#16)).wellFormed = false := by decide
theorem test_inc_indy_is_ill_formed : (Instr.inc (.indy 0x10#8)).wellFormed = false := by decide
theorem test_cpx_zpx_is_ill_formed : (Instr.cpx (.mem (.zpx 0x10#8))).wellFormed = false := by decide
theorem test_asl_absy_is_ill_formed : (Instr.asl (.mem (.absy 0x1000#16))).wellFormed = false := by decide

/-- A byte of R86 is not an invalid opcode: neither LDA # nor BRK. -/
theorem test_valid_bytes_are_not_invalid_opcodes :
    (Instr.invalid 0xA9#8).wellFormed = false ∧ (Instr.invalid 0x00#8).wellFormed = false := by decide

/-- An ill-formed term has no bytes, so it cannot be fetched. -/
theorem test_ill_formed_has_no_bytes : encode (.lda (.mem (.zpy 0x05#8))) = [] := by decide

/-! ## Decoding words written out from the encoding tables -/

/-- A list of byte sequences, each with the instruction the encoding tables of R86 and R81 to R84 give it. -/
def decodesTo (p : List Byte × Instr) : Bool :=
  match decode p.1 with
  | .ok (i, rest) => i == p.2 && rest == []
  | .error _ => false

theorem test_decode_loads : List.all [
    ([0xA9#8, 0x24#8], .lda (.imm 0x24#8)),
    ([0xA5#8, 0x80#8], .lda (.mem (.zp 0x80#8))),
    ([0xB5#8, 0xF0#8], .lda (.mem (.zpx 0xF0#8))),
    ([0xAD#8, 0x34#8, 0x12#8], .lda (.mem (.abs 0x1234#16))),
    ([0xBD#8, 0xF0#8, 0xFF#8], .lda (.mem (.absx 0xFFF0#16))),
    ([0xB9#8, 0x80#8, 0x12#8], .lda (.mem (.absy 0x1280#16))),
    ([0xA1#8, 0xF0#8], .lda (.mem (.indx 0xF0#8))),
    ([0xB1#8, 0xFF#8], .lda (.mem (.indy 0xFF#8))),
    ([0xA2#8, 0x00#8], .ldx (.imm 0x00#8)),
    ([0xB6#8, 0xFF#8], .ldx (.mem (.zpy 0xFF#8))),
    ([0xBE#8, 0x00#8, 0x30#8], .ldx (.mem (.absy 0x3000#16))),
    ([0xA0#8, 0x80#8], .ldy (.imm 0x80#8)),
    ([0xBC#8, 0x00#8, 0x40#8], .ldy (.mem (.absx 0x4000#16)))] decodesTo = true := by decide

theorem test_decode_stores : List.all [
    ([0x85#8, 0x10#8], .sta (.zp 0x10#8)),
    ([0x9D#8, 0xFF#8, 0xFF#8], .sta (.absx 0xFFFF#16)),
    ([0x91#8, 0x36#8], .sta (.indy 0x36#8)),
    ([0x96#8, 0x80#8], .stx (.zpy 0x80#8)),
    ([0x8E#8, 0x34#8, 0x12#8], .stx (.abs 0x1234#16)),
    ([0x94#8, 0x01#8], .sty (.zpx 0x01#8)),
    ([0x8C#8, 0xFF#8, 0xFF#8], .sty (.abs 0xFFFF#16))] decodesTo = true := by decide

theorem test_decode_arithmetic : List.all [
    ([0x69#8, 0xC0#8], .adc (.imm 0xC0#8)),
    ([0x71#8, 0x10#8], .adc (.mem (.indy 0x10#8))),
    ([0xE9#8, 0x30#8], .sbc (.imm 0x30#8)),
    ([0xF9#8, 0x00#8, 0x10#8], .sbc (.mem (.absy 0x1000#16))),
    ([0xE6#8, 0x10#8], .inc (.zp 0x10#8)),
    ([0xFE#8, 0x00#8, 0x30#8], .inc (.absx 0x3000#16)),
    ([0xC6#8, 0x10#8], .dec (.zp 0x10#8)),
    ([0xCE#8, 0x00#8, 0x30#8], .dec (.abs 0x3000#16)),
    ([0xE8#8], .inx),
    ([0xC8#8], .iny),
    ([0xCA#8], .dex),
    ([0x88#8], .dey)] decodesTo = true := by decide

theorem test_decode_logical : List.all [
    ([0x29#8, 0x0F#8], .and (.imm 0x0F#8)),
    ([0x31#8, 0x10#8], .and (.mem (.indy 0x10#8))),
    ([0x09#8, 0x80#8], .ora (.imm 0x80#8)),
    ([0x1D#8, 0x00#8, 0x10#8], .ora (.mem (.absx 0x1000#16))),
    ([0x49#8, 0xFF#8], .eor (.imm 0xFF#8)),
    ([0x41#8, 0x10#8], .eor (.mem (.indx 0x10#8))),
    ([0xC9#8, 0x30#8], .cmp (.imm 0x30#8)),
    ([0xD9#8, 0x00#8, 0x10#8], .cmp (.mem (.absy 0x1000#16))),
    ([0xE0#8, 0x0A#8], .cpx (.imm 0x0A#8)),
    ([0xEC#8, 0x00#8, 0x10#8], .cpx (.mem (.abs 0x1000#16))),
    ([0xC0#8, 0x80#8], .cpy (.imm 0x80#8)),
    ([0xC4#8, 0x10#8], .cpy (.mem (.zp 0x10#8)))] decodesTo = true := by decide

theorem test_decode_shifts : List.all [
    ([0x0A#8], .asl .acc),
    ([0x1E#8, 0x00#8, 0x10#8], .asl (.mem (.absx 0x1000#16))),
    ([0x4A#8], .lsr .acc),
    ([0x46#8, 0x34#8], .lsr (.mem (.zp 0x34#8))),
    ([0x2A#8], .rol .acc),
    ([0x36#8, 0x34#8], .rol (.mem (.zpx 0x34#8))),
    ([0x6A#8], .ror .acc),
    ([0x6E#8, 0x00#8, 0x10#8], .ror (.mem (.abs 0x1000#16)))] decodesTo = true := by decide

theorem test_decode_branches : List.all [
    ([0x10#8, 0xFA#8], .bpl 0xFA#8),
    ([0x30#8, 0x04#8], .bmi 0x04#8),
    ([0x50#8, 0x02#8], .bvc 0x02#8),
    ([0x70#8, 0x02#8], .bvs 0x02#8),
    ([0x90#8, 0x0A#8], .bcc 0x0A#8),
    ([0xB0#8, 0xFE#8], .bcs 0xFE#8),
    ([0xD0#8, 0xF8#8], .bne 0xF8#8),
    ([0xF0#8, 0x7F#8], .beq 0x7F#8)] decodesTo = true := by decide

theorem test_decode_jumps : List.all [
    ([0x4C#8, 0x30#8, 0x00#8], .jmpAbs 0x0030#16),
    ([0x6C#8, 0xFF#8, 0x12#8], .jmpInd 0x12FF#16),
    ([0x20#8, 0x34#8, 0x12#8], .jsr 0x1234#16),
    ([0x60#8], .rts)] decodesTo = true := by decide

theorem test_decode_flags_and_stack : List.all [
    ([0x18#8], .clc),
    ([0x38#8], .sec),
    ([0x58#8], .cli),
    ([0x78#8], .sei),
    ([0xB8#8], .clv),
    ([0xD8#8], .cld),
    ([0xF8#8], .sed),
    ([0x48#8], .pha),
    ([0x68#8], .pla),
    ([0x00#8], .brk)] decodesTo = true := by decide

theorem test_decode_invalid_bytes : List.all [
    ([0x02#8], .invalid 0x02#8),
    ([0x24#8], .invalid 0x24#8),
    ([0xEA#8], .invalid 0xEA#8),
    ([0xFF#8], .invalid 0xFF#8)] decodesTo = true := by decide

/-- Where bytes are missing the decoder says so by name. -/
theorem test_decode_refuses_short_lists :
    decode [] = .error .noOpcode ∧ decode [0xAD#8, 0x34#8] = .error (.missingOperand 0xAD#8) := ⟨rfl, rfl⟩

/-- The opcode table's numbering: byte 0 is bits 7..0, and bits above `nbits` are 0 (JMP $1234; STA $0000). -/
theorem test_decode_table_word :
    decodeTableWord 24 0x12344C = some (.jmpAbs 0x1234#16) ∧ decodeTableWord 8 0x8D = some (.sta (.abs 0x0000#16)) := by
  decide

/-! ## Single steps -/

/-- The seven flags in the order the vectors write them. -/
def nvbdizc (n v b d i z c : Nat) : Flags := ⟨n == 1, v == 1, b == 1, d == 1, i == 1, z == 1, c == 1⟩

/-- The reset state with the program counter, the code there and some bytes of memory set. -/
def setup (pc : Word) (code : List Byte) (cells : List (Word × Byte)) : State :=
  (cells.foldl (fun t c => memWrite c.1 c.2 t) State.reset).setPc pc |> fun s =>
    (code.foldl (fun (p : Word × State) b => (p.1 + 1, memWrite p.1 b p.2)) (pc, s)).2

/-- What a step leaves, through a view of the state. -/
def after {α : Type} (s : State) (view : State → α) : Option α :=
  match step s with
  | .next t => some (view t)
  | .fault _ => none
  | .refused _ => none

/-! ### Load and store -/

/-- LS7: LDA $fff0, X. -/
theorem test_lda_ls7 :
    after ((setup 0x0200#16 [0xBD#8, 0xF0#8, 0xFF#8] [(0x0010#16, 0x42#8)]).setX 0x20#8)
      (fun t => (t.a, t.pc, t.flags)) =
    some (0x42#8, 0x0203#16, nvbdizc 0 0 0 0 0 0 0) := by decide

/-- LS10: LDA ($ff), Y. -/
theorem test_lda_ls10 :
    after ((setup 0x0200#16 [0xB1#8, 0xFF#8] [(0x00FF#16, 0xFF#8), (0x0000#16, 0x12#8), (0x0100#16, 0x77#8), (0x1300#16, 0x5A#8)]).setY 0x01#8)
      (fun t => (t.a, t.pc, t.flags)) =
    some (0x5A#8, 0x0202#16, nvbdizc 0 0 0 0 0 0 0) := by decide

/-- LS13: LDX $ff, Y. -/
theorem test_ldx_ls13 :
    after ((setup 0x0200#16 [0xB6#8, 0xFF#8] [(0x0001#16, 0x81#8)]).setY 0x02#8)
      (fun t => (t.x, t.pc, t.flags)) =
    some (0x81#8, 0x0202#16, nvbdizc 1 0 0 0 0 0 0) := by decide

/-- LS14: LDX $3000, Y. -/
theorem test_ldx_ls14 :
    after ((setup 0x0200#16 [0xBE#8, 0x00#8, 0x30#8] [(0x30FF#16, 0x10#8)]).setY 0xFF#8)
      (fun t => (t.x, t.pc, t.flags)) =
    some (0x10#8, 0x0203#16, nvbdizc 0 0 0 0 0 0 0) := by decide

/-- LS16: LDY $10, X. -/
theorem test_ldy_ls16 :
    after (((setup 0x0200#16 [0xB4#8, 0x10#8] [(0x0015#16, 0x00#8)]).setX 0x05#8).setFlags (nvbdizc 1 0 0 0 0 0 0))
      (fun t => (t.pc, t.flags)) =
    some (0x0202#16, nvbdizc 0 0 0 0 0 1 0) := by decide

/-- LS17: LDY $4000, X. -/
theorem test_ldy_ls17 :
    after ((setup 0x0200#16 [0xBC#8, 0x00#8, 0x40#8] [(0x4001#16, 0x7F#8)]).setX 0x01#8)
      (fun t => (t.y, t.pc, t.flags)) =
    some (0x7F#8, 0x0203#16, nvbdizc 0 0 0 0 0 0 0) := by decide

/-- LS20: STA $0200. -/
theorem test_sta_ls20 :
    after ((setup 0x0200#16 [0x8D#8, 0x00#8, 0x02#8] []).setA 0xEA#8)
      (fun t => (t.pc, memRead t 0x0200#16, t.flags)) =
    some (0x0203#16, 0xEA#8, nvbdizc 0 0 0 0 0 0 0) := by decide

/-- LS21: STA $ffff, X. -/
theorem test_sta_ls21 :
    after (((setup 0x0200#16 [0x9D#8, 0xFF#8, 0xFF#8] []).setA 0x12#8).setX 0x02#8)
      (fun t => (t.pc, memRead t 0x0001#16, t.flags)) =
    some (0x0203#16, 0x12#8, nvbdizc 0 0 0 0 0 0 0) := by decide

/-- LS26: STX $80, Y. -/
theorem test_stx_ls26 :
    after (((setup 0x0200#16 [0x96#8, 0x80#8] []).setX 0xFF#8).setY 0x90#8)
      (fun t => (t.pc, memRead t 0x0010#16, t.flags)) =
    some (0x0202#16, 0xFF#8, nvbdizc 0 0 0 0 0 0 0) := by decide

/-- LS27: STX $1234. -/
theorem test_stx_ls27 :
    after ((setup 0x0200#16 [0x8E#8, 0x34#8, 0x12#8] []).setFlags (nvbdizc 0 0 0 0 0 1 0))
      (fun t => (t.pc, memRead t 0x1234#16, t.flags)) =
    some (0x0203#16, 0x00#8, nvbdizc 0 0 0 0 0 1 0) := by decide

/-- LS29: STY $01, X. -/
theorem test_sty_ls29 :
    after (((setup 0x0200#16 [0x94#8, 0x01#8] []).setX 0xFF#8).setY 0x77#8)
      (fun t => (t.pc, memRead t 0x0000#16, t.flags)) =
    some (0x0202#16, 0x77#8, nvbdizc 0 0 0 0 0 0 0) := by decide

/-- LS30: STY $ffff. -/
theorem test_sty_ls30 :
    after ((setup 0x0200#16 [0x8C#8, 0xFF#8, 0xFF#8] []).setY 0x01#8)
      (fun t => (t.pc, memRead t 0xFFFF#16, t.flags)) =
    some (0x0203#16, 0x01#8, nvbdizc 0 0 0 0 0 0 0) := by decide

/-! ### Add and subtract with carry, increment and decrement -/

/-- AR4: ADC #$b0. -/
theorem test_adc_ar4 :
    after ((setup 0x0200#16 [0x69#8, 0xB0#8] []).setA 0xC0#8)
      (fun t => (t.a, t.pc, t.flags)) =
    some (0x70#8, 0x0202#16, nvbdizc 0 1 0 0 0 0 1) := by decide

/-- AR15: ADC ($10), Y. -/
theorem test_adc_ar15 :
    after (((setup 0x0200#16 [0x71#8, 0x10#8] [(0x0010#16, 0x00#8), (0x0011#16, 0x20#8), (0x2002#16, 0x7F#8)]).setA 0x01#8).setY 0x02#8)
      (fun t => (t.a, t.pc, t.flags)) =
    some (0x80#8, 0x0202#16, nvbdizc 1 1 0 0 0 0 0) := by decide

/-- AR17: SBC #$30. -/
theorem test_sbc_ar17 :
    after (((setup 0x0200#16 [0xE9#8, 0x30#8] []).setA 0x50#8).setFlags (nvbdizc 0 0 0 0 0 0 1))
      (fun t => (t.a, t.pc, t.flags)) =
    some (0x21#8, 0x0202#16, nvbdizc 0 0 0 0 0 0 1) := by decide

/-- AR23: SBC #$80. -/
theorem test_sbc_ar23 :
    after ((setup 0x0200#16 [0xE9#8, 0x80#8] []).setA 0x80#8)
      (fun t => (t.a, t.pc, t.flags)) =
    some (0x00#8, 0x0202#16, nvbdizc 0 1 0 0 0 1 1) := by decide

/-- AR34: INC $10. -/
theorem test_inc_ar34 :
    after ((setup 0x0200#16 [0xE6#8, 0x10#8] [(0x0010#16, 0xFF#8)]).setFlags (nvbdizc 0 0 0 0 0 0 1))
      (fun t => (t.pc, memRead t 0x0010#16, t.flags)) =
    some (0x0202#16, 0x00#8, nvbdizc 0 0 0 0 0 1 1) := by decide

/-- AR37: INC $3000, X. -/
theorem test_inc_ar37 :
    after ((setup 0x0200#16 [0xFE#8, 0x00#8, 0x30#8] [(0x3002#16, 0xFE#8)]).setX 0x02#8)
      (fun t => (t.pc, memRead t 0x3002#16, t.flags)) =
    some (0x0203#16, 0xFF#8, nvbdizc 1 0 0 0 0 0 0) := by decide

/-- AR38: DEC $10. -/
theorem test_dec_ar38 :
    after ((setup 0x0200#16 [0xC6#8, 0x10#8] [(0x0010#16, 0x00#8)]))
      (fun t => (t.pc, memRead t 0x0010#16, t.flags)) =
    some (0x0202#16, 0xFF#8, nvbdizc 1 0 0 0 0 0 0) := by decide

/-- AR40: DEC $3000. -/
theorem test_dec_ar40 :
    after ((setup 0x0200#16 [0xCE#8, 0x00#8, 0x30#8] [(0x3000#16, 0x80#8)]))
      (fun t => (t.pc, memRead t 0x3000#16, t.flags)) =
    some (0x0203#16, 0x7F#8, nvbdizc 0 0 0 0 0 0 0) := by decide

/-- AR42: INX. -/
theorem test_inx_ar42 :
    after (((setup 0x0200#16 [0xE8#8] []).setX 0xFF#8).setFlags (nvbdizc 0 0 0 0 0 0 1))
      (fun t => (t.x, t.pc, t.flags)) =
    some (0x00#8, 0x0201#16, nvbdizc 0 0 0 0 0 1 1) := by decide

/-- AR43: INX. -/
theorem test_inx_ar43 :
    after ((setup 0x0200#16 [0xE8#8] []).setX 0x7F#8)
      (fun t => (t.x, t.pc, t.flags)) =
    some (0x80#8, 0x0201#16, nvbdizc 1 0 0 0 0 0 0) := by decide

/-- AR44: INY. -/
theorem test_iny_ar44 :
    after ((setup 0x0200#16 [0xC8#8] []))
      (fun t => (t.y, t.pc, t.flags)) =
    some (0x01#8, 0x0201#16, nvbdizc 0 0 0 0 0 0 0) := by decide

/-- AR45: DEX. -/
theorem test_dex_ar45 :
    after ((setup 0x0200#16 [0xCA#8] []))
      (fun t => (t.x, t.pc, t.flags)) =
    some (0xFF#8, 0x0201#16, nvbdizc 1 0 0 0 0 0 0) := by decide

/-- AR46: DEX. -/
theorem test_dex_ar46 :
    after (((setup 0x0200#16 [0xCA#8] []).setX 0x01#8).setFlags (nvbdizc 1 0 0 0 0 0 0))
      (fun t => (t.x, t.pc, t.flags)) =
    some (0x00#8, 0x0201#16, nvbdizc 0 0 0 0 0 1 0) := by decide

/-- AR47: DEY. -/
theorem test_dey_ar47 :
    after ((setup 0x0200#16 [0x88#8] []).setY 0x80#8)
      (fun t => (t.y, t.pc, t.flags)) =
    some (0x7F#8, 0x0201#16, nvbdizc 0 0 0 0 0 0 0) := by decide

/-! ### Logical and compare -/

/-- LC1: AND #$0f. -/
theorem test_and_lc1 :
    after (((setup 0x0200#16 [0x29#8, 0x0F#8] []).setA 0xF0#8).setFlags (nvbdizc 0 1 0 0 0 0 1))
      (fun t => (t.a, t.pc, t.flags)) =
    some (0x00#8, 0x0202#16, nvbdizc 0 1 0 0 0 1 1) := by decide

/-- LC9: AND ($10), Y. -/
theorem test_and_lc9 :
    after (((setup 0x0200#16 [0x31#8, 0x10#8] [(0x0010#16, 0x00#8), (0x0011#16, 0x20#8), (0x2001#16, 0x81#8)]).setA 0xFF#8).setY 0x01#8)
      (fun t => (t.a, t.pc, t.flags)) =
    some (0x81#8, 0x0202#16, nvbdizc 1 0 0 0 0 0 0) := by decide

/-- LC10: ORA #$80. -/
theorem test_ora_lc10 :
    after ((setup 0x0200#16 [0x09#8, 0x80#8] []).setA 0x41#8)
      (fun t => (t.a, t.pc, t.flags)) =
    some (0xC1#8, 0x0202#16, nvbdizc 1 0 0 0 0 0 0) := by decide

/-- LC16: ORA $1000, Y. -/
theorem test_ora_lc16 :
    after (((setup 0x0200#16 [0x19#8, 0x00#8, 0x10#8] [(0x1001#16, 0x80#8)]).setA 0x10#8).setY 0x01#8)
      (fun t => (t.a, t.pc, t.flags)) =
    some (0x90#8, 0x0203#16, nvbdizc 1 0 0 0 0 0 0) := by decide

/-- LC20: EOR #$55. -/
theorem test_eor_lc20 :
    after (((setup 0x0200#16 [0x49#8, 0x55#8] []).setA 0x55#8).setFlags (nvbdizc 0 0 0 0 0 0 1))
      (fun t => (t.a, t.pc, t.flags)) =
    some (0x00#8, 0x0202#16, nvbdizc 0 0 0 0 0 1 1) := by decide

/-- LC26: EOR ($10, X). -/
theorem test_eor_lc26 :
    after ((setup 0x0200#16 [0x41#8, 0x10#8] [(0x0010#16, 0x00#8), (0x0011#16, 0x20#8), (0x2000#16, 0x34#8)]).setA 0x12#8)
      (fun t => (t.a, t.pc, t.flags)) =
    some (0x26#8, 0x0202#16, nvbdizc 0 0 0 0 0 0 0) := by decide

/-- LC29: CMP #$50. -/
theorem test_cmp_lc29 :
    after (((setup 0x0200#16 [0xC9#8, 0x50#8] []).setA 0x30#8).setFlags (nvbdizc 0 0 0 0 0 0 1))
      (fun t => (t.pc, t.flags)) =
    some (0x0202#16, nvbdizc 1 0 0 0 0 0 0) := by decide

/-- LC33: CMP #$80. -/
theorem test_cmp_lc33 :
    after ((setup 0x0200#16 [0xC9#8, 0x80#8] []).setA 0x80#8)
      (fun t => (t.pc, t.flags)) =
    some (0x0202#16, nvbdizc 0 1 0 0 0 1 1) := by decide

/-- LC44: CPX #$0a. -/
theorem test_cpx_lc44 :
    after ((setup 0x0200#16 [0xE0#8, 0x0A#8] []).setX 0x0A#8)
      (fun t => (t.pc, t.flags)) =
    some (0x0202#16, nvbdizc 0 0 0 0 0 1 1) := by decide

/-- LC46: CPX $1000. -/
theorem test_cpx_lc46 :
    after ((setup 0x0200#16 [0xEC#8, 0x00#8, 0x10#8] [(0x1000#16, 0x00#8)]).setX 0xFF#8)
      (fun t => (t.pc, t.flags)) =
    some (0x0203#16, nvbdizc 1 0 0 0 0 0 1) := by decide

/-- LC47: CPY #$80. -/
theorem test_cpy_lc47 :
    after ((setup 0x0200#16 [0xC0#8, 0x80#8] []).setY 0x7F#8)
      (fun t => (t.pc, t.flags)) =
    some (0x0202#16, nvbdizc 1 0 0 0 0 0 0) := by decide

/-- LC49: CPY $1000. -/
theorem test_cpy_lc49 :
    after ((setup 0x0200#16 [0xCC#8, 0x00#8, 0x10#8] [(0x1000#16, 0x05#8)]).setY 0x06#8)
      (fun t => (t.pc, t.flags)) =
    some (0x0203#16, nvbdizc 0 0 0 0 0 0 1) := by decide

/-! ### Shift and rotate -/

/-- SH3: ASL. -/
theorem test_asl_sh3 :
    after (((setup 0x0200#16 [0x0A#8] []).setA 0x41#8).setFlags (nvbdizc 0 1 0 0 0 0 0))
      (fun t => (t.a, t.pc, t.flags)) =
    some (0x82#8, 0x0201#16, nvbdizc 1 1 0 0 0 0 0) := by decide

/-- SH7: ASL $1000, X. -/
theorem test_asl_sh7 :
    after ((setup 0x0200#16 [0x1E#8, 0x00#8, 0x10#8] [(0x1001#16, 0xC0#8)]).setX 0x01#8)
      (fun t => (t.pc, memRead t 0x1001#16, t.flags)) =
    some (0x0203#16, 0x80#8, nvbdizc 1 0 0 0 0 0 1) := by decide

/-- SH9: LSR. -/
theorem test_lsr_sh9 :
    after (((setup 0x0200#16 [0x4A#8] []).setA 0x01#8).setFlags (nvbdizc 1 0 0 0 0 0 0))
      (fun t => (t.a, t.pc, t.flags)) =
    some (0x00#8, 0x0201#16, nvbdizc 0 0 0 0 0 1 1) := by decide

/-- SH10: LSR $34. -/
theorem test_lsr_sh10 :
    after ((setup 0x0200#16 [0x46#8, 0x34#8] [(0x0034#16, 0xFF#8)]).setFlags (nvbdizc 0 0 0 0 0 0 1))
      (fun t => (t.pc, memRead t 0x0034#16, t.flags)) =
    some (0x0202#16, 0x7F#8, nvbdizc 0 0 0 0 0 0 1) := by decide

/-- SH16: ROL. -/
theorem test_rol_sh16 :
    after (((setup 0x0200#16 [0x2A#8] []).setA 0xFF#8).setFlags (nvbdizc 0 0 0 0 0 0 1))
      (fun t => (t.pc, t.flags)) =
    some (0x0201#16, nvbdizc 1 0 0 0 0 0 1) := by decide

/-- SH18: ROL $34, X. -/
theorem test_rol_sh18 :
    after (((setup 0x0200#16 [0x36#8, 0x34#8] [(0x0035#16, 0x40#8)]).setX 0x01#8).setFlags (nvbdizc 0 0 0 0 0 0 1))
      (fun t => (t.pc, memRead t 0x0035#16, t.flags)) =
    some (0x0202#16, 0x81#8, nvbdizc 1 0 0 0 0 0 0) := by decide

/-- SH21: ROR. -/
theorem test_ror_sh21 :
    after (((setup 0x0200#16 [0x6A#8] []).setA 0x03#8).setFlags (nvbdizc 0 0 0 0 0 0 1))
      (fun t => (t.a, t.pc, t.flags)) =
    some (0x81#8, 0x0201#16, nvbdizc 1 0 0 0 0 0 1) := by decide

/-- SH25: ROR $34, X. -/
theorem test_ror_sh25 :
    after (((setup 0x0200#16 [0x76#8, 0x34#8] [(0x0035#16, 0x01#8)]).setX 0x01#8).setFlags (nvbdizc 0 0 0 0 0 0 1))
      (fun t => (t.pc, memRead t 0x0035#16, t.flags)) =
    some (0x0202#16, 0x80#8, nvbdizc 1 0 0 0 0 0 1) := by decide

/-! ### Branches -/

/-- BR1: BPL $0002. -/
theorem test_bpl_br1 :
    after ((setup 0x0006#16 [0x10#8, 0xFA#8] []))
      (fun t => (t.pc, t.flags)) =
    some (0x0002#16, nvbdizc 0 0 0 0 0 0 0) := by decide

/-- BR2: BPL $0002. -/
theorem test_bpl_br2 :
    after ((setup 0x0006#16 [0x10#8, 0xFA#8] []).setFlags (nvbdizc 1 0 0 0 0 0 0))
      (fun t => (t.pc, t.flags)) =
    some (0x0008#16, nvbdizc 1 0 0 0 0 0 0) := by decide

/-- BR3: BMI $0106. -/
theorem test_bmi_br3 :
    after ((setup 0x0100#16 [0x30#8, 0x04#8] []).setFlags (nvbdizc 1 0 0 0 0 0 0))
      (fun t => (t.pc, t.flags)) =
    some (0x0106#16, nvbdizc 1 0 0 0 0 0 0) := by decide

/-- BR4: BMI $0106. -/
theorem test_bmi_br4 :
    after ((setup 0x0100#16 [0x30#8, 0x04#8] []))
      (fun t => (t.pc, t.flags)) =
    some (0x0102#16, nvbdizc 0 0 0 0 0 0 0) := by decide

/-- BR5: BVC $0014. -/
theorem test_bvc_br5 :
    after ((setup 0x0010#16 [0x50#8, 0x02#8] []))
      (fun t => (t.pc, t.flags)) =
    some (0x0014#16, nvbdizc 0 0 0 0 0 0 0) := by decide

/-- BR6: BVC $0014. -/
theorem test_bvc_br6 :
    after ((setup 0x0010#16 [0x50#8, 0x02#8] []).setFlags (nvbdizc 0 1 0 0 0 0 0))
      (fun t => (t.pc, t.flags)) =
    some (0x0012#16, nvbdizc 0 1 0 0 0 0 0) := by decide

/-- BR7: BVS $0014. -/
theorem test_bvs_br7 :
    after ((setup 0x0010#16 [0x70#8, 0x02#8] []).setFlags (nvbdizc 0 1 0 0 0 0 0))
      (fun t => (t.pc, t.flags)) =
    some (0x0014#16, nvbdizc 0 1 0 0 0 0 0) := by decide

/-- BR8: BVS $0014. -/
theorem test_bvs_br8 :
    after ((setup 0x0010#16 [0x70#8, 0x02#8] []))
      (fun t => (t.pc, t.flags)) =
    some (0x0012#16, nvbdizc 0 0 0 0 0 0 0) := by decide

/-- BR9: BCC $0010. -/
theorem test_bcc_br9 :
    after ((setup 0x0004#16 [0x90#8, 0x0A#8] []))
      (fun t => (t.pc, t.flags)) =
    some (0x0010#16, nvbdizc 0 0 0 0 0 0 0) := by decide

/-- BR10: BCC $0010. -/
theorem test_bcc_br10 :
    after ((setup 0x0004#16 [0x90#8, 0x0A#8] []).setFlags (nvbdizc 0 0 0 0 0 0 1))
      (fun t => (t.pc, t.flags)) =
    some (0x0006#16, nvbdizc 0 0 0 0 0 0 1) := by decide

/-- BR11: BCS $0200. -/
theorem test_bcs_br11 :
    after ((setup 0x0200#16 [0xB0#8, 0xFE#8] []).setFlags (nvbdizc 0 0 0 0 0 0 1))
      (fun t => (t.pc, t.flags)) =
    some (0x0200#16, nvbdizc 0 0 0 0 0 0 1) := by decide

/-- BR12: BCS $0200. -/
theorem test_bcs_br12 :
    after ((setup 0x0200#16 [0xB0#8, 0xFE#8] []))
      (fun t => (t.pc, t.flags)) =
    some (0x0202#16, nvbdizc 0 0 0 0 0 0 0) := by decide

/-- BR18: BNE $0010. -/
theorem test_bne_br18 :
    after ((setup 0xFFFE#16 [0xD0#8, 0x10#8] []))
      (fun t => (t.pc, t.flags)) =
    some (0x0010#16, nvbdizc 0 0 0 0 0 0 0) := by decide

/-- BR19: BNE $ff82. -/
theorem test_bne_br19 :
    after ((setup 0x0000#16 [0xD0#8, 0x80#8] []))
      (fun t => (t.pc, t.flags)) =
    some (0xFF82#16, nvbdizc 0 0 0 0 0 0 0) := by decide

/-- BR15: BEQ $1081. -/
theorem test_beq_br15 :
    after ((setup 0x1000#16 [0xF0#8, 0x7F#8] []).setFlags (nvbdizc 0 0 0 0 0 1 0))
      (fun t => (t.pc, t.flags)) =
    some (0x1081#16, nvbdizc 0 0 0 0 0 1 0) := by decide

/-- BR16: BEQ $0f82. -/
theorem test_beq_br16 :
    after ((setup 0x1000#16 [0xF0#8, 0x80#8] []).setFlags (nvbdizc 0 0 0 0 0 1 0))
      (fun t => (t.pc, t.flags)) =
    some (0x0F82#16, nvbdizc 0 0 0 0 0 1 0) := by decide

/-! ### Jump, call and return -/

/-- JP1: JMP $0030. -/
theorem test_jmp_jp1 :
    after ((setup 0x0200#16 [0x4C#8, 0x30#8, 0x00#8] []))
      (fun t => (t.pc)) =
    some (0x0030#16) := by decide

/-- JP4: JMP ($12ff). -/
theorem test_jmp_jp4 :
    after ((setup 0x0200#16 [0x6C#8, 0xFF#8, 0x12#8] [(0x12FF#16, 0x34#8), (0x1300#16, 0x56#8), (0x1200#16, 0x99#8)]))
      (fun t => (t.pc)) =
    some (0x5634#16) := by decide

/-- JP7: JSR $8000. -/
theorem test_jsr_jp7 :
    after ((setup 0x0300#16 [0x20#8, 0x00#8, 0x80#8] []).setSp 0x00#8)
      (fun t => (t.sp, t.pc, memRead t 0x0100#16, memRead t 0x01FF#16)) =
    some (0xFE#8, 0x8000#16, 0x03#8, 0x03#8) := by decide

/-- JP9: JSR $4000. -/
theorem test_jsr_jp9 :
    after ((setup 0x01FD#16 [0x20#8, 0x00#8, 0x40#8] []))
      (fun t => (t.sp, t.pc, memRead t 0x01FF#16, memRead t 0x01FE#16)) =
    some (0xFD#8, 0x4000#16, 0x02#8, 0x00#8) := by decide

/-- JP10: RTS. -/
theorem test_rts_jp10 :
    after ((setup 0x0200#16 [0x60#8] [(0x01FE#16, 0x05#8), (0x01FF#16, 0x00#8)]).setSp 0xFD#8)
      (fun t => (t.sp, t.pc)) =
    some (0xFF#8, 0x0005#16) := by decide

/-- JP11: RTS. -/
theorem test_rts_jp11 :
    after ((setup 0x0200#16 [0x60#8] [(0x0100#16, 0x34#8), (0x0101#16, 0x12#8)]))
      (fun t => (t.sp, t.pc)) =
    some (0x01#8, 0x1234#16) := by decide

/-! ### Flags, stack, termination, invalid opcodes -/

/-- FS1: CLC. -/
theorem test_clc_fs1 :
    after ((setup 0x0200#16 [0x18#8] []).setFlags (nvbdizc 0 0 0 0 0 1 1))
      (fun t => (t.pc, t.flags)) =
    some (0x0201#16, nvbdizc 0 0 0 0 0 1 0) := by decide

/-- FS2: SEC. -/
theorem test_sec_fs2 :
    after ((setup 0x0200#16 [0x38#8] []))
      (fun t => (t.pc, t.flags)) =
    some (0x0201#16, nvbdizc 0 0 0 0 0 0 1) := by decide

/-- FS3: CLI. -/
theorem test_cli_fs3 :
    after ((setup 0x0200#16 [0x58#8] []).setFlags (nvbdizc 0 0 0 0 1 0 0))
      (fun t => (t.pc, t.flags)) =
    some (0x0201#16, nvbdizc 0 0 0 0 0 0 0) := by decide

/-- FS4: SEI. -/
theorem test_sei_fs4 :
    after ((setup 0x0200#16 [0x78#8] []))
      (fun t => (t.pc, t.flags)) =
    some (0x0201#16, nvbdizc 0 0 0 0 1 0 0) := by decide

/-- FS5: CLV. -/
theorem test_clv_fs5 :
    after ((setup 0x0200#16 [0xB8#8] []).setFlags (nvbdizc 1 1 0 0 0 0 0))
      (fun t => (t.pc, t.flags)) =
    some (0x0201#16, nvbdizc 1 0 0 0 0 0 0) := by decide

/-- FS6: CLD. -/
theorem test_cld_fs6 :
    after ((setup 0x0200#16 [0xD8#8] []).setFlags (nvbdizc 0 0 0 1 0 0 0))
      (fun t => (t.pc, t.flags)) =
    some (0x0201#16, nvbdizc 0 0 0 0 0 0 0) := by decide

/-- FS7: SED. -/
theorem test_sed_fs7 :
    after ((setup 0x0200#16 [0xF8#8] []))
      (fun t => (t.pc, t.flags)) =
    some (0x0201#16, nvbdizc 0 0 0 1 0 0 0) := by decide

/-- FS8: PHA. -/
theorem test_pha_fs8 :
    after (((setup 0x0200#16 [0x48#8] []).setA 0x11#8).setSp 0xFD#8)
      (fun t => (t.sp, t.pc, memRead t 0x01FD#16, t.flags)) =
    some (0xFC#8, 0x0201#16, 0x11#8, nvbdizc 0 0 0 0 0 0 0) := by decide

/-- FS9: PHA. -/
theorem test_pha_fs9 :
    after (((setup 0x0200#16 [0x48#8] []).setSp 0x00#8).setFlags (nvbdizc 1 0 0 0 0 0 0))
      (fun t => (t.sp, t.pc, memRead t 0x0100#16, t.flags)) =
    some (0xFF#8, 0x0201#16, 0x00#8, nvbdizc 1 0 0 0 0 0 0) := by decide

/-- FS11: PLA. -/
theorem test_pla_fs11 :
    after ((setup 0x0200#16 [0x68#8] [(0x0100#16, 0x80#8)]))
      (fun t => (t.a, t.sp, t.pc, t.flags)) =
    some (0x80#8, 0x00#8, 0x0201#16, nvbdizc 1 0 0 0 0 0 0) := by decide

/-- FS12: PLA. -/
theorem test_pla_fs12 :
    after (((setup 0x0200#16 [0x68#8] [(0x0111#16, 0x00#8)]).setSp 0x10#8).setFlags (nvbdizc 1 0 0 0 0 0 0))
      (fun t => (t.sp, t.pc, t.flags)) =
    some (0x11#8, 0x0201#16, nvbdizc 0 0 0 0 0 1 0) := by decide

/-- FS13: BRK. -/
theorem test_brk_fs13 :
    after (((setup 0x000E#16 [0x00#8] []).setA 0x37#8).setFlags (nvbdizc 0 0 0 0 0 1 1))
      (fun t => (t.pc, t.halt)) =
    some (0x000F#16, .halted .none) := by decide

/-- FS14: BRK. -/
theorem test_brk_fs14 :
    after ((setup 0xFFFF#16 [0x00#8] []))
      (fun t => (t.pc, t.halt)) =
    some (0x0000#16, .halted .none) := by decide

/-- FS18: ???. -/
theorem test_invalid_fs18 :
    after ((setup 0x0200#16 [0x24#8, 0x10#8] [(0x0010#16, 0xC0#8)]).setA 0xFF#8)
      (fun t => (t.pc, t.halt)) =
    some (0x0201#16, .halted (.invalidOpcode 0x0200#16)) := by decide

/-- FS20: ???. -/
theorem test_invalid_fs20 :
    after ((setup 0xFFFF#16 [0xFF#8] []))
      (fun t => (t.pc, t.halt)) =
    some (0x0000#16, .halted (.invalidOpcode 0xFFFF#16)) := by decide

/-! ### Reset, fetching and the host's operations -/

/-- H1: zero-filled memory runs one step, `PC=0001`, `Halted(none)`. -/
theorem test_zero_filled_run : after State.reset (fun t => (t.pc, t.halt)) = some (0x0001#16, .halted .none) := by
  decide

/-- H3: an image `FF` halts at once with the diagnostic address 0. -/
theorem test_image_ff :
    after (State.resetTo (launchMemory [0xFF#8])) (fun t => (t.pc, t.halt)) =
    some (0x0001#16, .halted (.invalidOpcode 0x0000#16)) := by decide

/-- LS31: an instruction that straddles the top of memory takes its last byte from address 0. -/
theorem test_fetch_wraps :
    after (setup 0xFFFE#16 [0xAD#8, 0xFF#8, 0x12#8] [(0x12FF#16, 0x44#8)]) (fun t => (t.a, t.pc)) =
    some (0x44#8, 0x0001#16) := by decide

/-- The placed word is the one the next step runs, even from a Halted state. -/
theorem test_with_fetch_word :
    after ((State.reset.setHalt (.halted .none)).withFetchWord 16 0x24A9) (fun t => (t.a, t.pc, t.halt)) =
    some (0x24#8, 0x0002#16, .running) := by decide

/-- Section 6, lines 2 and 3: the status byte after reset is 0x20, and 0x21 with C set alone. -/
theorem test_status_byte : Flags.reset.statusByte = 0x20#8 ∧ (nvbdizc 0 0 0 0 0 0 1).statusByte = 0x21#8 := by decide

/-- DV3: a walk from the middle of an instruction decodes what the bytes spell. -/
theorem test_disassemble_dv3 :
    (disassemble (launchMemory [0xA9#8, 0x00#8, 0xA2#8, 0x0A#8]) 0x0001#16 3).map Line.text =
    ["0001  00        BRK", "0002  a2 0a     LDX #$0a"] := by decide

/-- DV7: a branch line shows its target, modulo 65536. -/
theorem test_branch_target_dv7 : branchTarget 0xFFFE#16 0x10#8 = 0x0010#16 ∧ branchTarget 0x0000#16 0x80#8 = 0xFF82#16 := by
  decide

/-- Section 6, lines 11 and 12: a write while Halted leaves the halt register; a reset brings back `M0` and Running. -/
theorem test_reset_after_halt :
    (match performAll (launchMemory [0x00#8]) [.singleStep, .writeByte 0x0020#16 0x99#8, .snapshot, .reset,
        .readByte 0x0020#16] (State.resetTo (launchMemory [0x00#8])) with
      | .next (replies, t) => (replies.getLast?, t.halt)
      | .fault _ => (none, .halted .none)
      | .refused _ => (none, .halted .none)) = (some (.byte 0x00#8), .running) := by decide

/-! ## Witnesses: the hypotheses of the statements are met -/

/-- `DecodeOfEncodeIsTheInstruction`, for a long and for a short instruction and for both ends of the invalid bytes. -/
theorem witness_wellFormed :
    (Instr.lda (.mem (.absx 0xFFFF#16))).wellFormed = true ∧ Instr.brk.wellFormed = true ∧
    (Instr.invalid 0x02#8).wellFormed = true ∧ (Instr.invalid 0xFF#8).wellFormed = true := by decide

/-- `EncodeOfDecodeIsTheBytes`: bytes that decode, with one left over. -/
theorem witness_decode : decode [0x6C#8, 0xFF#8, 0xFF#8, 0x55#8] = .ok (.jmpInd 0xFFFF#16, [0x55#8]) := rfl

/-- `InvalidBytesAreTheListed117` and the second clause of `OnlyHaltingInstructionsHalt`: a Running state at the
smallest and one at the largest invalid byte. -/
theorem witness_invalid_byte :
    (setup 0x0200#16 [0x02#8] []).halt = .running ∧ memRead (setup 0x0200#16 [0x02#8] []) 0x0200#16 ∈ invalidBytes ∧
    memRead (setup 0xFFFF#16 [0xFF#8] []) 0xFFFF#16 ∈ invalidBytes ∧
    (∃ t, step (setup 0x0200#16 [0x02#8] []) = .next t) := ⟨rfl, by decide, by decide, _, rfl⟩

/-- `ExecutionAndDisassemblyReadTheSameBytes`: a fetched instruction that is no branch, jump, call or return. -/
theorem witness_fetched_load :
    fetchInstr (setup 0x0200#16 [0xB1#8, 0xFF#8] []) = .ok (.lda (.mem (.indy 0xFF#8))) ∧
    (Instr.lda (.mem (.indy 0xFF#8))).mode ≠ .rel ∧
    (Instr.lda (.mem (.indy 0xFF#8))).handler ∉ [Handler.jmpAbs, .jmpInd, .jsr, .rts] := ⟨rfl, by decide, by decide⟩

/-- `FetchTakesOpcodeThenOperandBytesInOrder`: an instruction of each of the three lengths, the longest across the top
of memory. -/
theorem witness_fetch_lengths :
    fetchInstr (setup 0x0200#16 [0xE8#8] []) = .ok .inx ∧
    (oprom (memRead (setup 0x0200#16 [0xE8#8] []) 0x0200#16)).mode.operandBytes = 0 ∧
    fetchInstr (setup 0x0200#16 [0xA9#8, 0x24#8] []) = .ok (.lda (.imm 0x24#8)) ∧
    (oprom (memRead (setup 0x0200#16 [0xA9#8, 0x24#8] []) 0x0200#16)).mode.operandBytes = 1 ∧
    fetchInstr (setup 0xFFFE#16 [0x4C#8, 0x30#8, 0x00#8] []) = .ok (.jmpAbs 0x0030#16) ∧
    (oprom (memRead (setup 0xFFFE#16 [0x4C#8, 0x30#8, 0x00#8] []) 0xFFFE#16)).mode.operandBytes = 2 :=
  ⟨rfl, rfl, rfl, rfl, rfl, rfl⟩

/-- `StepRunsTheDecodedInstruction`: a Running state whose bytes decode. -/
theorem witness_step_runs :
    (setup 0xFFFF#16 [0xD0#8, 0x05#8] []).halt = .running ∧
    decode [memRead (setup 0xFFFF#16 [0xD0#8, 0x05#8] []) 0xFFFF#16,
      memRead (setup 0xFFFF#16 [0xD0#8, 0x05#8] []) 0x0000#16,
      memRead (setup 0xFFFF#16 [0xD0#8, 0x05#8] []) 0x0001#16] = .ok (.bne 0x05#8, [0x00#8]) := ⟨rfl, rfl⟩

/-- `HaltedStepChangesNothing`: both halt reasons are states, and there are operations other than the reset. -/
theorem witness_halted :
    (State.reset.setHalt (.halted .none)).halt = .halted .none ∧
    (State.reset.setHalt (.halted (.invalidOpcode 0xFFFF#16))).halt = .halted (.invalidOpcode 0xFFFF#16) ∧
    HostAction.run 0 ≠ .reset ∧ HostAction.writeByte 0xFFFF#16 0x00#8 ≠ .reset := ⟨rfl, rfl, by decide, by decide⟩

/-- `StepKeepsTheInvariant`: the invariant holds of a Running state that stores, and of one halted by each reason, and
each of them steps. -/
theorem witness_invariant :
    Inv (setup 0x0200#16 [0x85#8, 0x10#8] []) ∧ (∃ t, step (setup 0x0200#16 [0x85#8, 0x10#8] []) = .next t) ∧
    Inv ((setup 0x0000#16 [0xEA#8] []).setPc 0x0001#16 |>.setHalt (.halted (.invalidOpcode 0x0000#16))) ∧
    Inv ((setup 0xFFFF#16 [0x00#8] []).setPc 0x0000#16 |>.setHalt (.halted .none)) :=
  ⟨⟨by decide, by decide, rfl, trivial⟩, ⟨_, rfl⟩, ⟨by decide, by decide, rfl, rfl, by decide⟩,
    ⟨by decide, by decide, rfl, rfl⟩⟩

/-- `EveryLaunchMeetsTheInvariant`, `LaunchMemoryHoldsTheImage` and `LoaderWritesReachTheLaunchState`: images of 0 and
of exactly 65536 bytes fit, one of 65537 does not. -/
theorem witness_images :
    ([] : List Byte).length ≤ 65536 ∧ (List.replicate 65536 0xEA#8).length ≤ 65536 ∧
    65536 < (List.replicate 65537 0xEA#8).length  :=
  ⟨Nat.zero_le _, Nat.le_of_eq List.length_replicate,
    Nat.lt_of_lt_of_eq (Nat.lt_succ_self 65536) List.length_replicate.symm⟩

/-- `MemoryReadsTheLastWrite` and the other statements with `StoredOnly`: there are other addresses, at both ends. -/
theorem witness_other_address : (0x0000#16 : Word) ≠ 0xFFFF#16 ∧ (0xFFFF#16 : Word) ≠ 0x0000#16 := by decide

/-- `StoreIsSeenByTheNextFetch`: a store over the opcode byte at 0200 (LS20), and a later state that fetches there. -/
theorem witness_store_seen :
    ∃ t u, exec (.sta (.abs 0x0200#16)) (State.reset.setA 0xEA#8) = .next t ∧
      (0x0200#16, 0xEA#8) ∈ storedCells (.sta (.abs 0x0200#16)) (State.reset.setA 0xEA#8) ∧
      u = t.setPc 0x0200#16 ∧ u.mem = t.mem ∧ u.pc = 0x0200#16 := ⟨_, _, rfl, by decide, rfl, rfl, rfl⟩

/-- `StoreIsSeenByTheNextFetch`, the clause on the three fetched bytes, at both ends of `k`: the two pushes of a JSR at
the wrap of SP are the first byte of one later fetch and the last of another, and the byte a memory shift stores at
0000 is the last byte of a fetch at FFFE. -/
theorem witness_store_seen_as_operand :
    (∃ t, exec (.jsr 0x1234#16) (State.reset.setSp 0x00#8) = .next t ∧ (t.setPc 0x0100#16).mem = t.mem ∧
      (t.setPc 0x01FD#16).mem = t.mem) ∧
    (0x0100#16, 0x00#8) ∈ storedCells (.jsr 0x1234#16) (State.reset.setSp 0x00#8) ∧
    (0x01FF#16, 0x03#8) ∈ storedCells (.jsr 0x1234#16) (State.reset.setSp 0x00#8) ∧
    (0x0100#16).toNat = ((0x0100#16).toNat + 0) % 65536 ∧ (0x01FF#16).toNat = ((0x01FD#16).toNat + 2) % 65536 ∧
    (∃ t, exec (.asl (.mem (.zp 0x00#8))) (memWrite 0x0000#16 0x81#8 State.reset) = .next t ∧
      (t.setPc 0xFFFE#16).mem = t.mem) ∧
    (0x0000#16, 0x02#8) ∈ storedCells (.asl (.mem (.zp 0x00#8))) (memWrite 0x0000#16 0x81#8 State.reset) ∧
    (0x0000#16).toNat = ((0xFFFE#16).toNat + 2) % 65536 :=
  ⟨⟨_, rfl, rfl, rfl⟩, by decide, by decide, by decide, by decide, ⟨_, rfl, rfl⟩, by decide, by decide⟩

/-- `NegAddObeysItsClosedForms`: the two clauses on V split at the operand 0x80 alone. -/
theorem witness_operand_80 : (0x7F#8 : Byte) ≠ 0x80#8 ∧ (0x81#8 : Byte) ≠ 0x80#8 ∧ (0x80#8 : Byte) = 0x80#8 := by decide

/-- Rows of the NegAdd table on both sides of the split: 80 - 80 does not overflow and has V = 1, 80 - 01 overflows and
has V = 1, 00 - 80 overflows and has V = 0. -/
theorem test_neg_add_v :
    (negAdd 0x80#8 0x80#8 false).v = true ∧ (negAdd 0x80#8 0x01#8 false).v = true ∧
    (negAdd 0x00#8 0x80#8 false).v = false ∧ (negAdd 0xFF#8 0x00#8 true).c = true := by decide

/-- `LogicalInstructionsWorkBitwise`: the clauses are about the bits 0 to 7. -/
theorem witness_bits : 0 < 8 ∧ 7 < 8 ∧ (0x81#8).getLsbD 7 = true ∧ (0x81#8).getLsbD 0 = true := by decide

/-- `JsrPushesTheReturnAddress`: with SP = 00 the pushed addresses are 0100 and 01FF, and the addresses beside them are
neither. -/
theorem witness_beside_the_pushes :
    (0x0101#16).toNat ≠ 0x0100 + (0x00#8).toNat ∧ (0x0101#16).toNat ≠ 0x0100 + ((0x00#8).toNat + 255) % 256 ∧
    (0x0200#16).toNat ≠ 0x0100 + (0x00#8).toNat ∧ (0x0200#16).toNat ≠ 0x0100 + ((0x00#8).toNat + 255) % 256 := by decide

/-- `PushAndPopAreInverse`: a state after other writes that spare the pushed byte, at the wrap of SP. -/
theorem witness_pushed_state :
    ∃ u, u = memWrite 0x0101#16 0x77#8 (push8 0x11#8 (State.reset.setSp 0x00#8)) ∧
      u.sp = (push8 0x11#8 (State.reset.setSp 0x00#8)).sp ∧
      memRead u 0x0100#16 = memRead (push8 0x11#8 (State.reset.setSp 0x00#8)) 0x0100#16 := ⟨_, rfl, rfl, rfl⟩

/-- `TheStackIsARingInPageOne`: SP at both ends, a sequence of 256 bytes, and the addresses just outside page 1. -/
theorem witness_ring :
    (State.reset.setSp 0x00#8).sp = 0x00#8 ∧ State.reset.sp = 0xFF#8 ∧ (List.replicate 256 0x11#8).length = 256 ∧
    ¬(0x0100 ≤ (0x00FF#16).toNat ∧ (0x00FF#16).toNat ≤ 0x01FF) ∧
    ¬(0x0100 ≤ (0x0200#16).toNat ∧ (0x0200#16).toNat ≤ 0x01FF) :=
  ⟨rfl, rfl, List.length_replicate, by decide, by decide⟩

/-- `TheStackIsARingInPageOne`, last clause: two different states with one SP and one page 1. -/
theorem witness_same_page_one :
    (memWrite 0x0200#16 0x55#8 State.reset).sp = State.reset.sp ∧
    (∀ b : Word, 0x0100 ≤ b.toNat → b.toNat ≤ 0x01FF →
      memRead (memWrite 0x0200#16 0x55#8 State.reset) b = memRead State.reset b) ∧
    memWrite 0x0200#16 0x55#8 State.reset ≠ State.reset :=
  ⟨rfl, fun b _ h => memRead_memWrite_other _ _ (by rintro rfl; exact absurd h (by decide)), by decide⟩

/-- `CallAndReturnRoundTrip`: a call at the wrap of SP and of the program counter, and a later state that has the
stack as the call left it but other registers and other memory. -/
theorem witness_call_and_return :
    ∃ t u, exec (.jsr 0x1234#16) ((State.reset.setSp 0x00#8).setPc 0xFFFD#16) = .next t ∧
      u = memWrite 0x0200#16 0x55#8 (t.setA 0x77#8) ∧ u.sp = t.sp ∧
      memRead u 0x0100#16 = memRead t 0x0100#16 ∧ memRead u 0x01FF#16 = memRead t 0x01FF#16 :=
  ⟨_, _, rfl, rfl, rfl, rfl, rfl⟩

/-- `MemoryChangesOnlyWhereAnInstructionStores`: a store, a call and a load, each with an address that is none of its
stored ones. -/
theorem witness_not_stored :
    (∃ t, exec (.sta (.zp 0x10#8)) State.reset = .next t) ∧ 0x0011#16 ∉ storedAddrs (.sta (.zp 0x10#8)) State.reset ∧
    (∃ t, exec (.jsr 0x0030#16) State.reset = .next t) ∧ 0x01FD#16 ∉ storedAddrs (.jsr 0x0030#16) State.reset ∧
    (∃ t, exec (.lda (.imm 0x24#8)) State.reset = .next t) ∧
    0x0010#16 ∉ storedAddrs (.lda (.imm 0x24#8)) State.reset :=
  ⟨⟨_, rfl⟩, by decide, ⟨_, rfl⟩, by decide, ⟨_, rfl⟩, by decide⟩

/-- `RegistersAreWrittenOnlyByTheirInstructions`: each register does change in some step, A by a load and by an
accumulator rotate. -/
theorem witness_register_changes :
    (∃ t, exec (.lda (.imm 0x24#8)) State.reset = .next t ∧ t.a ≠ State.reset.a) ∧
    (∃ t, exec (.rol .acc) (State.reset.setFlags (nvbdizc 0 0 0 0 0 0 1)) = .next t ∧ t.a ≠ 0x00#8) ∧
    (∃ t, exec .dex State.reset = .next t ∧ t.x ≠ State.reset.x) ∧
    (∃ t, exec .iny State.reset = .next t ∧ t.y ≠ State.reset.y) ∧
    (∃ t, exec .pha State.reset = .next t ∧ t.sp ≠ State.reset.sp) :=
  ⟨⟨_, rfl, by decide⟩, ⟨_, rfl, by decide⟩, ⟨_, rfl, by decide⟩, ⟨_, rfl, by decide⟩, ⟨_, rfl, by decide⟩⟩

/-- `FlagsAreWrittenOnlyByTheirInstructions`: each of the six writable flags does change in some step. -/
theorem witness_flag_changes :
    (∃ t, exec .dex State.reset = .next t ∧ t.flags.n ≠ State.reset.flags.n) ∧
    (∃ t, exec (.lda (.imm 0x00#8)) State.reset = .next t ∧ t.flags.z ≠ State.reset.flags.z) ∧
    (∃ t, exec .sec State.reset = .next t ∧ t.flags.c ≠ State.reset.flags.c) ∧
    (∃ t, exec (.adc (.imm 0x80#8)) (State.reset.setA 0x80#8) = .next t ∧ t.flags.v ≠ State.reset.flags.v) ∧
    (∃ t, exec .sed State.reset = .next t ∧ t.flags.d ≠ State.reset.flags.d) ∧
    (∃ t, exec .sei State.reset = .next t ∧ t.flags.i ≠ State.reset.flags.i) :=
  ⟨⟨_, rfl, by decide⟩, ⟨_, rfl, by decide⟩, ⟨_, rfl, by decide⟩, ⟨_, rfl, by decide⟩, ⟨_, rfl, by decide⟩,
    ⟨_, rfl, by decide⟩⟩

/-- `OnlyHaltingInstructionsHalt`, first and third clause (the second is `witness_invalid_byte`): Running states at
the byte 00 and at a byte that does not halt, and both step. -/
theorem witness_running_bytes :
    State.reset.halt = .running ∧ memRead State.reset 0x0000#16 = 0x00#8 ∧ (∃ t, step State.reset = .next t) ∧
    memRead (setup 0x0000#16 [0xE8#8] []) 0x0000#16 ≠ 0x00#8 ∧
    memRead (setup 0x0000#16 [0xE8#8] []) 0x0000#16 ∉ invalidBytes ∧
    (∃ t, step (setup 0x0000#16 [0xE8#8] []) = .next t) :=
  ⟨rfl, rfl, ⟨_, rfl⟩, by decide, by decide, ⟨_, rfl⟩⟩

/-- `DecimalInterruptAndBreakFlagsInfluenceNothing`: two different states that agree on all but B, D and I, and one of
them steps. -/
theorem witness_idle_flags :
    ∃ s' t, s' = (setup 0x0200#16 [0x69#8, 0x01#8] []).setFlags (nvbdizc 0 0 1 1 1 0 0) ∧
      SameButIdleFlags (setup 0x0200#16 [0x69#8, 0x01#8] []) s' ∧ s' ≠ setup 0x0200#16 [0x69#8, 0x01#8] [] ∧
      step (setup 0x0200#16 [0x69#8, 0x01#8] []) = .next t := ⟨_, _, rfl, rfl, by decide, rfl⟩

/-- `RunIsRepeatedSingleStep`: a run that reaches a Halted state (H1), and one that does not (H2, `JMP $0000`). -/
theorem witness_run_halts :
    (∃ t, run 1 State.reset = .next t ∧ t.halt ≠ .running ∧ t.halt = .halted .none) ∧
    ∃ t, run 3 (State.resetTo (launchMemory [0x4C#8, 0x00#8, 0x00#8])) = .next t ∧ t.halt = .running :=
  ⟨⟨_, rfl, by decide, rfl⟩, _, rfl, rfl⟩

/-- `DisassemblerWalksInstructionByInstruction`: a range of one byte, the shortest that gives a line. -/
theorem witness_length : 0 < 1 ∧ (disassemble [] 0xFFFF#16 1).length = 1 := by decide

end Sys2Proof.Tests
end

section
/-! SUPPORT. What every instruction does to each part of the state, one lemma for each register, each flag, the halt
register and memory; what the decoder says of the opcode byte. -/

namespace Sys2Proof.Machine

/-! ## Memory -/

/-- The memory after the cells of a list have been stored, first to last. -/
def Memory.writeCells (cells : List (Word × Byte)) (m : Memory) : Memory :=
  cells.foldl (fun m c => m.write c.1.toNat c.2) m

theorem Memory.wf_writeCells (cells : List (Word × Byte)) {m : Memory} (h : m.wf = true) :
    (m.writeCells cells).wf = true := by
  induction cells generalizing m with
  | nil => exact h
  | cons c cells ih => exact ih (Memory.wf_write c.2 c.1.isLt h)

/-- An image that fits above `a` is loaded by writes inside the address space. -/
theorem wf_loadBytes (bs : List Byte) {a : Nat} {m : Memory} (hfit : a + bs.length ≤ Config.memorySize)
    (h : m.wf = true) : (loadBytes bs a m).wf = true := by
  induction bs generalizing a m with
  | nil => exact h
  | cons b bs ih =>
    rw [List.length_cons] at hfit
    exact ih (by omega) (Memory.wf_write b (by omega) h)

/-! ## One instruction -/

@[simp] theorem push8_a (v : Byte) (s : State) : (push8 v s).a = s.a := rfl
@[simp] theorem push8_x (v : Byte) (s : State) : (push8 v s).x = s.x := rfl
@[simp] theorem push8_y (v : Byte) (s : State) : (push8 v s).y = s.y := rfl
@[simp] theorem push8_flags (v : Byte) (s : State) : (push8 v s).flags = s.flags := rfl
@[simp] theorem push8_halt (v : Byte) (s : State) : (push8 v s).halt = s.halt := rfl

@[simp] theorem shiftRotate_x (kind : ShiftKind) (o : ShiftOperand) (s : State) :
    (shiftRotate kind o s).x = s.x := by cases o <;> rfl
@[simp] theorem shiftRotate_y (kind : ShiftKind) (o : ShiftOperand) (s : State) :
    (shiftRotate kind o s).y = s.y := by cases o <;> rfl
@[simp] theorem shiftRotate_sp (kind : ShiftKind) (o : ShiftOperand) (s : State) :
    (shiftRotate kind o s).sp = s.sp := by cases o <;> rfl
@[simp] theorem shiftRotate_halt (kind : ShiftKind) (o : ShiftOperand) (s : State) :
    (shiftRotate kind o s).halt = s.halt := by cases o <;> rfl

section
variable {i : Instr} {s t : State}

theorem exec_a_written (h : exec i s = .next t) (ha : t.a ≠ s.a) :
    i.handler ∈ [.lda, .adc, .sbc, .and, .ora, .eor, .pla] ∨
      (i.handler ∈ [.asl, .lsr, .rol, .ror] ∧ i.mode = .imp) := by
  cases i with
  | lda | adc | sbc | and | ora | eor | pla => left; simp [Instr.handler]
  | asl o | lsr o | rol o | ror o =>
    cases o with
    | acc => right; exact ⟨by simp [Instr.handler], rfl⟩
    | mem m => cases h; exact absurd rfl ha
  | jsr => cases h; simp at ha
  | _ => cases h; exact absurd rfl ha

theorem exec_x_written (h : exec i s = .next t) (hx : t.x ≠ s.x) : i.handler ∈ [.ldx, .inx, .dex] := by
  cases i with
  | ldx | inx | dex => simp [Instr.handler]
  | asl | lsr | rol | ror | jsr => cases h; simp at hx
  | _ => cases h; exact absurd rfl hx

theorem exec_y_written (h : exec i s = .next t) (hy : t.y ≠ s.y) : i.handler ∈ [.ldy, .iny, .dey] := by
  cases i with
  | ldy | iny | dey => simp [Instr.handler]
  | asl | lsr | rol | ror | jsr => cases h; simp at hy
  | _ => cases h; exact absurd rfl hy

theorem exec_sp_written (h : exec i s = .next t) (hsp : t.sp ≠ s.sp) : i.handler ∈ [.pha, .pla, .jsr, .rts] := by
  cases i with
  | pha | pla | jsr | rts => simp [Instr.handler]
  | asl | lsr | rol | ror => cases h; simp at hsp
  | _ => cases h; exact absurd rfl hsp

/-- N and Z are written together and from one byte, or both stay (R120). -/
theorem exec_nz (h : exec i s = .next t) :
    (t.flags.n = s.flags.n ∧ t.flags.z = s.flags.z) ∨
    i.handler ∈ [.lda, .ldx, .ldy, .adc, .sbc, .inc, .dec, .inx, .iny, .dex, .dey, .and, .ora, .eor, .cmp, .cpx,
      .cpy, .asl, .lsr, .rol, .ror, .pla] ∧ ∃ v : Byte, t.flags.n = v.msb ∧ t.flags.z = (v == 0#8) := by
  cases i with
  | lda | ldx | ldy | adc | sbc | inc | dec | inx | iny | dex | dey | and | ora | eor | cmp | cpx | cpy
  | asl | lsr | rol | ror | pla => cases h; exact .inr ⟨by simp [Instr.handler], _, rfl, rfl⟩
  | _ => cases h; exact .inl ⟨rfl, rfl⟩

theorem exec_c_written (h : exec i s = .next t) (hc : t.flags.c ≠ s.flags.c) :
    i.handler ∈ [.adc, .sbc, .cmp, .cpx, .cpy, .asl, .lsr, .rol, .ror, .clc, .sec] := by
  cases i with
  | adc | sbc | cmp | cpx | cpy | asl | lsr | rol | ror | clc | sec => simp [Instr.handler]
  | _ => cases h; exact absurd rfl hc

theorem exec_v_written (h : exec i s = .next t) (hv : t.flags.v ≠ s.flags.v) :
    i.handler ∈ [.adc, .sbc, .cmp, .cpx, .cpy, .clv] := by
  cases i with
  | adc | sbc | cmp | cpx | cpy | clv => simp [Instr.handler]
  | _ => cases h; exact absurd rfl hv

theorem exec_d_written (h : exec i s = .next t) (hd : t.flags.d ≠ s.flags.d) : i.handler ∈ [.cld, .sed] := by
  cases i with
  | cld | sed => simp [Instr.handler]
  | _ => cases h; exact absurd rfl hd

theorem exec_i_written (h : exec i s = .next t) (hi : t.flags.i ≠ s.flags.i) : i.handler ∈ [.cli, .sei] := by
  cases i with
  | cli | sei => simp [Instr.handler]
  | _ => cases h; exact absurd rfl hi

/-- No instruction writes B (R268). -/
theorem exec_b (h : exec i s = .next t) : t.flags.b = s.flags.b := by
  cases i <;> cases h <;> rfl

/-- Memory changes by the stores of `storedCells` and by nothing else. -/
theorem exec_mem (h : exec i s = .next t) : t.mem = s.mem.writeCells (storedCells i s) := by
  cases i with
  | asl o | lsr o | rol o | ror o => cases o <;> cases h <;> rfl
  | _ => cases h; rfl

/-- Only the two halting events write the halt register (R250); each leaves the program counter past its one byte and
the rest of the state alone (R258). -/
theorem exec_halt (h : exec i s = .next t) :
    t.halt = s.halt ∨
    (i.handler = .brk ∧ t = { s with pc := s.pc + 1, halt := .halted .none }) ∨
    (i.handler = .invalid ∧ t = { s with pc := s.pc + 1, halt := .halted (.invalidOpcode s.pc) }) := by
  cases i with
  | brk => cases h; exact .inr (.inl ⟨rfl, rfl⟩)
  | invalid op => cases h; exact .inr (.inr ⟨rfl, rfl⟩)
  | asl | lsr | rol | ror | jsr => cases h; left; simp
  | _ => cases h; exact .inl rfl

/-- What one step can do: nothing when Halted (R226), else the instruction at the program counter (R221). -/
theorem step_cases (h : step s = .next t) :
    t = s ∨ (s.halt = .running ∧ ∃ i, fetchInstr s = .ok i ∧ exec i s = .next t) := by
  unfold step at h
  split at h
  · cases h; exact .inl rfl
  · next hrun =>
    split at h
    · next j hj => exact .inr ⟨hrun, j, hj, h⟩
    · cases h

end

/-! ## The opcode byte of the fetched instruction -/

theorem inMode_eq_some {mode want : Mode} {i j : Instr} (h : inMode mode want i = some j) : j = i := by
  unfold inMode at h
  split at h
  · exact (Option.some.inj h).symm
  · cases h

/-- The instruction of a ROM entry belongs to the entry's handler. -/
theorem handler_of_instr {e : RomEntry} {op b1 b2 : Byte} {i : Instr} (h : e.instr op b1 b2 = some i) :
    i.handler = e.handler := by
  obtain ⟨k, m⟩ := e
  cases k with
  | lda | ldx | ldy | sta | stx | sty | adc | sbc | inc | dec | and | ora | eor | cmp | cpx | cpy
  | asl | lsr | rol | ror =>
    obtain ⟨v, -, rfl⟩ := Option.map_eq_some_iff.mp h
    rfl
  | _ => rw [inMode_eq_some h]; rfl

theorem handler_of_decode {op : Byte} {stream rest : List Byte} {i : Instr}
    (h : decode (op :: stream) = .ok (i, rest)) : i.handler = (oprom op).handler := by
  simp only [decode] at h
  split at h
  · cases h
  · split at h
    · cases h
    · next hi => cases h; exact handler_of_instr hi

/-- The opcode byte at the program counter names the handler of the instruction fetched there (R220). -/
theorem handler_of_fetchInstr {s : State} {i : Instr} (h : fetchInstr s = .ok i) :
    i.handler = (oprom (memRead s s.pc)).handler := by
  unfold fetchInstr at h
  split at h
  · next hd => cases h; exact handler_of_decode hd
  · cases h

theorem eq_haltOpcode_of_handler_brk : ∀ op : Byte, (oprom op).handler = .brk → op = Config.haltOpcode := by decide

theorem mem_invalidBytes_of_handler_invalid :
    ∀ op : Byte, (oprom op).handler = .invalid → op ∈ invalidBytes := by decide

end Sys2Proof.Machine
end

section
/-! SUPPORT. The state's statements settled: the invariant of steps (R25, R30, R120, R268), who writes the registers
and the flags (R26, R36), the status byte (R32) and the stack (R21, R27 to R29). -/

namespace Sys2Proof.Machine

/-! ## The invariant -/

/-- The state after reset meets the invariant with any launch memory in canonical form. -/
theorem inv_resetTo {m0 : Memory} (h : m0.wf = true) : Inv (State.resetTo m0) where
  memWf := h
  notNegativeZero := by simp [Flags.reset]
  breakClear := rfl
  haltTruthful := trivial

theorem exec_notNegativeZero {i : Instr} {s t : State} (h : exec i s = .next t)
    (hs : ¬(s.flags.n = true ∧ s.flags.z = true)) : ¬(t.flags.n = true ∧ t.flags.z = true) := by
  obtain ⟨hn, hz⟩ | ⟨-, v, hn, hz⟩ := exec_nz h
  · rwa [hn, hz]
  · rw [hn, hz]; exact not_msb_and_zero v

/-- The instruction fetched in a Running state halts with a truthful reason or not at all: its own opcode byte, which
neither halting event overwrites, stands just before the program counter. -/
theorem exec_haltTruthful {i : Instr} {s t : State} (hrun : s.halt = .running) (hf : fetchInstr s = .ok i)
    (h : exec i s = .next t) : HaltTruthful t := by
  have hop := handler_of_fetchInstr hf
  obtain hkeep | ⟨hb, rfl⟩ | ⟨hinv, rfl⟩ := exec_halt h
  · rw [HaltTruthful, hkeep, hrun]; trivial
  · show memRead s (s.pc + 1 - 1) = Config.haltOpcode
    rw [BitVec.add_sub_cancel]
    exact eq_haltOpcode_of_handler_brk _ (hop.symm.trans hb)
  · exact ⟨rfl, mem_invalidBytes_of_handler_invalid _ (hop.symm.trans hinv)⟩

/-- Settles O11: a step of a Halted unit changes nothing, and an executed instruction keeps each part of the
invariant. -/
theorem stepKeepsTheInvariant : Obligations.StepKeepsTheInvariant := by
  intro s t hs h
  obtain rfl | ⟨hrun, i, hf, he⟩ := step_cases h
  · exact hs
  · exact
      { memWf := by rw [exec_mem he]; exact Memory.wf_writeCells _ hs.memWf
        notNegativeZero := exec_notNegativeZero he hs.notNegativeZero
        breakClear := (exec_b he).trans hs.breakClear
        haltTruthful := exec_haltTruthful hrun hf he }

/-- Settles O13: an image that fits is loaded in canonical form. -/
theorem everyLaunchMeetsTheInvariant : Obligations.EveryLaunchMeetsTheInvariant := by
  intro image hlen
  have hfit : 0 + image.length ≤ Config.memorySize := by rwa [Nat.zero_add]
  exact ⟨State.resetTo (launchMemory image), if_pos hlen, inv_resetTo (wf_loadBytes image hfit rfl)⟩

/-- Settles O12: the empty memory is in canonical form. -/
theorem resetMeetsTheInvariant : Obligations.ResetMeetsTheInvariant := inv_resetTo rfl

/-! ## Who writes the registers and the flags -/

/-- Settles O50, register by register. -/
theorem registersAreWrittenOnlyByTheirInstructions : Obligations.RegistersAreWrittenOnlyByTheirInstructions :=
  fun _ _ _ h => ⟨exec_a_written h, exec_x_written h, exec_y_written h, exec_sp_written h⟩

/-- Settles O51, flag by flag. -/
theorem flagsAreWrittenOnlyByTheirInstructions : Obligations.FlagsAreWrittenOnlyByTheirInstructions := by
  intro i s t h
  refine ⟨fun hnz => ?_, exec_c_written h, exec_v_written h, exec_d_written h, exec_i_written h, exec_b h⟩
  obtain ⟨hn, hz⟩ | ⟨hmem, -⟩ := exec_nz h
  · exact absurd hnz (by simp [hn, hz])
  · exact hmem

/-! ## The status byte -/

/-- A bit of the status byte is the digit of its weight in the sum that forms the byte. -/
theorem statusByte_getLsbD {f : Flags} {k : Nat} {b : Bool} (hk : k < 8)
    (h : (128 * f.n.toNat + 64 * f.v.toNat + 32 + 16 * f.b.toNat + 8 * f.d.toNat + 4 * f.i.toNat + 2 * f.z.toNat
      + f.c.toNat) / 2 ^ k % 2 = b.toNat) : f.statusByte.getLsbD k = b := by
  rw [Flags.statusByte, BitVec.getLsbD_ofNat, Nat.testBit_eq_decide_div_mod_eq, h]
  cases b <;> simp [hk]

/-- Settles O27: the lower weights of the sum add to less than the weight of each bit. -/
theorem statusByteHasTheDocumentedLayout : Obligations.StatusByteHasTheDocumentedLayout := by
  intro f
  have hn := f.n.toNat_le
  have hv := f.v.toNat_le
  have hb := f.b.toNat_le
  have hd := f.d.toNat_le
  have hi := f.i.toNat_le
  have hz := f.z.toNat_le
  have hc := f.c.toNat_le
  have h1 : true.toNat = 1 := rfl
  refine ⟨?_, ?_, ?_, ?_, ?_, ?_, ?_, ?_⟩ <;> exact statusByte_getLsbD (by decide) (by omega)

/-! ## The stack -/

/-- Settles O46: each clause is the rule of the push or the pop; a pop from the lowered pointer reads where the push
wrote. -/
theorem pushAndPopAreInverse : Obligations.PushAndPopAreInverse := by
  intro s v
  refine ⟨⟨memRead_push8_same v s, fun b hb => memRead_push8_other v s hb⟩, ?_, rfl, ?_, ?_, rfl, ?_⟩
  · simp only [push8_eq]; bv_omega
  · rw [pop8_eq, memRead, stackAddr_toNat, BitVec.toNat_add]; rfl
  · simp only [pop8_eq]; bv_omega
  · intro u hsp hread
    have hup : u.sp + 1 = s.sp := by rw [hsp, push8_eq]; exact BitVec.sub_add_cancel _ _
    simp only [pop8_eq, hup, and_self, and_true]
    exact hread.trans (memRead_push8_same v s)

theorem foldl_push8_sp (vs : List Byte) (s : State) :
    (vs.foldl (fun t v => push8 v t) s).sp = s.sp - BitVec.ofNat 8 vs.length := by
  induction vs generalizing s with
  | nil => simp
  | cons v vs ih =>
    rw [List.foldl_cons, ih, push8_eq, List.length_cons]
    bv_omega

/-- The stack lies in page 1 (R29). -/
theorem stackAddr_mem_page_one (sp : Byte) : 0x0100 ≤ (stackAddr sp).toNat ∧ (stackAddr sp).toNat ≤ 0x01FF := by
  rw [stackAddr_toNat]; omega

/-- Settles O47: 256 decrements of an 8-bit pointer are none, and every stack address lies in page 1. -/
theorem theStackIsARingInPageOne : Obligations.TheStackIsARingInPageOne := by
  refine ⟨?_, ?_, ?_, ?_, ?_⟩
  · intro s v h; rw [push8_eq, h]; rfl
  · intro s h; rw [pop8_eq, h]; rfl
  · intro s vs hlen
    have hsp : (vs.foldl (fun t v => push8 v t) s).sp = s.sp := by
      rw [foldl_push8_sp, hlen]; exact BitVec.sub_zero _
    refine ⟨hsp, fun w => ?_⟩
    rw [← hsp]
    exact memRead_push8_same w _
  · intro s v b hout
    refine memRead_push8_other v s ?_
    rintro rfl
    exact hout (stackAddr_mem_page_one s.sp)
  · intro s u hsp hread
    obtain ⟨hlo, hhi⟩ := stackAddr_mem_page_one (s.sp + 1)
    simp only [pop8_eq, ← hsp]
    exact hread _ hlo hhi

end Sys2Proof.Machine
end

section
/-! SUPPORT. Memory's statements settled: a byte reads as last written (R50, R56, R60), a store is seen by the next
fetch (R64, R66), and every other byte stays (R29, R55, R140, R170). -/

namespace Sys2Proof.Machine

/-! ## Writing the same byte twice -/

theorem Memory.clear_clear (m : Memory) (a : Nat) : (m.clear a).clear a = m.clear a := by
  induction m with
  | nil => rfl
  | cons c m ih =>
    obtain ⟨k, v⟩ := c
    by_cases h : k = a <;> simp [Memory.clear, h, ih]

theorem Memory.clear_place_same (m : Memory) (a : Nat) (v : Byte) : (m.place a v).clear a = m.clear a := by
  induction m with
  | nil => simp [Memory.place, Memory.clear]
  | cons c m ih =>
    obtain ⟨k, w⟩ := c
    by_cases h : a < k
    · simp [Memory.place, Memory.clear, h]
    · simp [Memory.place, Memory.clear, h, ih]

/-- A write takes away whatever an earlier write at the address has listed. -/
theorem Memory.clear_write_same (m : Memory) (a : Nat) (v : Byte) : (m.write a v).clear a = m.clear a := by
  unfold Memory.write
  split
  · exact Memory.clear_clear m a
  · rw [Memory.clear_place_same, Memory.clear_clear]

/-- Of two writes at one address the later alone counts. -/
theorem Memory.write_write_same (m : Memory) (a : Nat) (v w : Byte) : (m.write a v).write a w = m.write a w := by
  rw [Memory.write, Memory.clear_write_same, ← Memory.write]

/-- Settles O18: the rules of the read after a write, and the later of two writes counts. -/
theorem memoryReadsTheLastWrite : Obligations.MemoryReadsTheLastWrite := by
  intro s addr v
  refine ⟨⟨memRead_memWrite_same s addr v, fun b hb => memRead_memWrite_other s v hb⟩, rfl, ?_⟩
  exact congrArg s.setMem (Memory.write_write_same s.mem addr.toNat v v)

/-! ## Reads after a list of stores -/

theorem Memory.read_writeCells_other (cells : List (Word × Byte)) (m : Memory) {b : Word}
    (hb : b ∉ cells.map Prod.fst) : (m.writeCells cells).read b.toNat = m.read b.toNat := by
  induction cells generalizing m with
  | nil => rfl
  | cons c cells ih =>
    rw [List.map_cons, List.mem_cons, not_or] at hb
    obtain ⟨hbc, hbs⟩ := hb
    exact (ih _ hbs).trans (Memory.read_write_other m c.2 (mt BitVec.eq_of_toNat_eq hbc))

/-- Where no address is stored to twice, each holds its byte in the end. -/
theorem Memory.read_writeCells_of_mem {cells : List (Word × Byte)} (hnd : (cells.map Prod.fst).Nodup) (m : Memory)
    {c : Word × Byte} (hc : c ∈ cells) : (m.writeCells cells).read c.1.toNat = c.2 := by
  induction cells generalizing m with
  | nil => cases hc
  | cons d cells ih =>
    rw [List.map_cons, List.nodup_cons] at hnd
    obtain ⟨hd, hcells⟩ := hnd
    cases hc with
    | head => exact (Memory.read_writeCells_other cells _ hd).trans (Memory.read_write_same m _ _)
    | tail _ hc => exact ih hcells _ hc

/-- No instruction stores to an address twice: JSR's two pushes go to different addresses, also where SP wraps. -/
theorem storedAddrs_nodup (i : Instr) (s : State) : (storedAddrs i s).Nodup := by
  cases i with
  | sta | stx | sty | inc | dec | pha => exact List.nodup_singleton _
  | asl o | lsr o | rol o | ror o =>
    cases o with
    | acc => exact List.nodup_nil
    | mem m => exact List.nodup_singleton _
  | jsr w =>
    have hne : stackAddr s.sp ≠ stackAddr (s.sp - 1) := fun h => by
      have := stackAddr_inj.mp h
      bv_omega
    simpa [storedAddrs, storedCells] using hne
  | _ => exact List.nodup_nil

section
variable {i : Instr} {s t : State}

/-- Every byte but the stored ones reads as before. -/
theorem memRead_exec_other (h : exec i s = .next t) {b : Word} (hb : b ∉ storedAddrs i s) :
    memRead t b = memRead s b := by
  rw [memRead, exec_mem h]
  exact Memory.read_writeCells_other _ _ hb

/-- Every stored byte is there after the instruction. -/
theorem memRead_exec_stored (h : exec i s = .next t) {c : Word × Byte} (hc : c ∈ storedCells i s) :
    memRead t c.1 = c.2 := by
  rw [memRead, exec_mem h]
  exact Memory.read_writeCells_of_mem (storedAddrs_nodup i s) _ hc

end

/-- Settles O49: memory changes by the stored cells and by nothing else. -/
theorem memoryChangesOnlyWhereAnInstructionStores : Obligations.MemoryChangesOnlyWhereAnInstructionStores :=
  fun _ _ _ h _ hb => memRead_exec_other h hb

/-! ## The next fetch -/

/-- Byte `k` of the three fetched is the one at `pc + k`. -/
theorem fetchBytes_getElem? (u : State) {k : Nat} (hk : k < 3) :
    (fetchBytes u)[k]? = some (memRead u (u.pc + BitVec.ofNat 16 k)) := by
  match k with
  | 0 => simp [fetchBytes]
  | 1 => rfl
  | 2 => rfl

/-- Settles O21: a fetch reads memory as the instruction left it, and the stored byte is there. -/
theorem storeIsSeenByTheNextFetch : Obligations.StoreIsSeenByTheNextFetch := by
  intro i s t h c hc u hu
  have hread : memRead u c.1 = c.2 := (memRead_congr hu c.1).trans (memRead_exec_stored h hc)
  refine ⟨fun hpc => ?_, fun k hk haddr => ?_⟩
  · rw [fetch8, hpc]; exact hread
  · have hpc : u.pc + BitVec.ofNat 16 k = c.1 := by
      apply BitVec.eq_of_toNat_eq
      rw [BitVec.toNat_add, BitVec.toNat_ofNat, haddr, Nat.add_mod_mod]
    rw [fetchBytes_getElem? u hk, hpc, hread]

end Sys2Proof.Machine
end

section
/-! SUPPORT. The decoder and the encoder as one relation: what the bytes after the opcode byte decode to, which opcode
byte an instruction has, and from both that a list decodes to an instruction exactly when it begins with that
instruction's encoding (R80 to R91). -/

namespace Sys2Proof.Machine

/-! ## Operand bytes -/

section
variable {stream rest : List Byte} {b1 b2 : Byte}

theorem stream_of_takeOperands_zero (h : takeOperands 0 stream = some (b1, b2, rest)) : rest = stream := by
  cases h; rfl

theorem stream_of_takeOperands_one (h : takeOperands 1 stream = some (b1, b2, rest)) : b1 :: rest = stream := by
  match stream, h with
  | _ :: _, rfl => rfl

theorem stream_of_takeOperands_two (h : takeOperands 2 stream = some (b1, b2, rest)) :
    b1 :: b2 :: rest = stream := by
  match stream, h with
  | _ :: _ :: _, rfl => rfl

end

/-- A stream reads as `x` in a mode when it begins with the mode's operand bytes, `form` makes `x` of them, and `rest`
follows. -/
def ReadsAs {α : Type} (mode : Mode) (form : Byte → Byte → Option α) (stream rest : List Byte) (x : α) : Prop :=
  ∃ b1 b2, takeOperands mode.operandBytes stream = some (b1, b2, rest) ∧ form b1 b2 = some x

section
variable {mode want : Mode} {stream rest : List Byte} {op : Byte} {i : Instr}

theorem readsAs_map_iff {α β : Type} {form : Byte → Byte → Option α} {f : α → β} {y : β} :
    ReadsAs mode (fun b1 b2 => (form b1 b2).map f) stream rest y ↔
      ∃ x, ReadsAs mode form stream rest x ∧ f x = y := by
  simp only [ReadsAs, Option.map_eq_some_iff]
  constructor
  · rintro ⟨b1, b2, ht, x, hx, hy⟩; exact ⟨x, ⟨b1, b2, ht, hx⟩, hy⟩
  · rintro ⟨x, ⟨b1, b2, ht, hx⟩, hy⟩; exact ⟨b1, b2, ht, x, hx, hy⟩

/-- An address operand is read from exactly the bytes that encode it, in its own mode. -/
theorem readsAs_addrOperand_iff {m : AddrOperand} :
    ReadsAs mode (addrOperand mode) stream rest m ↔ m.mode = mode ∧ m.bytes ++ rest = stream := by
  constructor
  · rintro ⟨b1, b2, ht, hm⟩
    cases mode with
    | imp | imm | rel | inv => cases hm
    | zp | zpx | zpy | indx | indy => cases hm; exact ⟨rfl, stream_of_takeOperands_one ht⟩
    | abs | absx | absy | ind =>
      cases hm
      exact ⟨rfl, by simpa [AddrOperand.bytes] using stream_of_takeOperands_two ht⟩
  · rintro ⟨rfl, rfl⟩
    cases m with
    | zp b | zpx b | zpy b | indx b | indy b => exact ⟨b, 0, rfl, rfl⟩
    | abs w | absx w | absy w | ind w =>
      exact ⟨loByte w, hiByte w, rfl, by simp [AddrOperand.mode, addrOperand]⟩

theorem valueOperand_of_ne (h : mode ≠ .imm) :
    valueOperand mode = fun b1 b2 => (addrOperand mode b1 b2).map .mem := by
  cases mode with
  | imm => exact absurd rfl h
  | _ => rfl

theorem shiftOperand_of_ne (h : mode ≠ .imp) :
    shiftOperand mode = fun b1 b2 => (addrOperand mode b1 b2).map .mem := by
  cases mode with
  | imp => exact absurd rfl h
  | _ => rfl

theorem addrOperand_mode_ne_imm (m : AddrOperand) : m.mode ≠ .imm := by cases m <;> nofun
theorem addrOperand_mode_ne_imp (m : AddrOperand) : m.mode ≠ .imp := by cases m <;> nofun

/-- A value operand is read from exactly the bytes that encode it, in its own mode. -/
theorem readsAs_valueOperand_iff {v : ValueOperand} :
    ReadsAs mode (valueOperand mode) stream rest v ↔ v.mode = mode ∧ v.bytes ++ rest = stream := by
  constructor
  · intro h
    by_cases hmode : mode = .imm
    · subst hmode
      obtain ⟨b1, b2, ht, hv⟩ := h
      cases hv
      exact ⟨rfl, stream_of_takeOperands_one ht⟩
    · rw [valueOperand_of_ne hmode] at h
      obtain ⟨m, hm, rfl⟩ := readsAs_map_iff.mp h
      exact readsAs_addrOperand_iff.mp hm
  · rintro ⟨rfl, rfl⟩
    cases v with
    | imm b => exact ⟨b, 0, rfl, rfl⟩
    | mem m =>
      change ReadsAs m.mode (valueOperand m.mode) _ _ _
      rw [valueOperand_of_ne (addrOperand_mode_ne_imm m)]
      exact readsAs_map_iff.mpr ⟨m, readsAs_addrOperand_iff.mpr ⟨rfl, rfl⟩, rfl⟩

/-- The operand of a shift is read from exactly the bytes that encode it, in its own mode. -/
theorem readsAs_shiftOperand_iff {o : ShiftOperand} :
    ReadsAs mode (shiftOperand mode) stream rest o ↔ o.mode = mode ∧ o.bytes ++ rest = stream := by
  constructor
  · intro h
    by_cases hmode : mode = .imp
    · subst hmode
      obtain ⟨b1, b2, ht, hv⟩ := h
      cases hv
      exact ⟨rfl, stream_of_takeOperands_zero ht⟩
    · rw [shiftOperand_of_ne hmode] at h
      obtain ⟨m, hm, rfl⟩ := readsAs_map_iff.mp h
      exact readsAs_addrOperand_iff.mp hm
  · rintro ⟨rfl, rfl⟩
    cases o with
    | acc => exact ⟨0, 0, rfl, rfl⟩
    | mem m =>
      change ReadsAs m.mode (shiftOperand m.mode) _ _ _
      rw [shiftOperand_of_ne (addrOperand_mode_ne_imp m)]
      exact readsAs_map_iff.mpr ⟨m, readsAs_addrOperand_iff.mpr ⟨rfl, rfl⟩, rfl⟩

/-- An instruction of one mode is read where the ROM entry has that mode. -/
theorem readsAs_inMode_iff {f : Byte → Byte → Instr} :
    ReadsAs mode (fun b1 b2 => inMode mode want (f b1 b2)) stream rest i ↔
      mode = want ∧ ∃ b1 b2, takeOperands want.operandBytes stream = some (b1, b2, rest) ∧ f b1 b2 = i := by
  simp only [ReadsAs, inMode]
  constructor
  · rintro ⟨b1, b2, ht, hi⟩
    split at hi
    · next h => subst h; exact ⟨rfl, b1, b2, ht, Option.some.inj hi⟩
    · cases hi
  · rintro ⟨rfl, b1, b2, ht, hi⟩
    exact ⟨b1, b2, ht, by rw [if_pos rfl, hi]⟩

/-- A ROM entry reads an instruction from exactly the operand bytes that encode it: the instruction has the entry's
handler and mode, and an invalid opcode is the opcode byte itself. -/
theorem readsAs_instr_iff {e : RomEntry} :
    ReadsAs e.mode (e.instr op) stream rest i ↔
      i.handler = e.handler ∧ i.mode = e.mode ∧ i.operand ++ rest = stream ∧
        (i.handler = .invalid → i = .invalid op) := by
  constructor
  · intro h
    obtain ⟨k, mode⟩ := e
    cases k with
    | lda | ldx | ldy | adc | sbc | and | ora | eor | cmp | cpx | cpy =>
      obtain ⟨v, hv, rfl⟩ := readsAs_map_iff.mp h
      obtain ⟨hmode, hbytes⟩ := readsAs_valueOperand_iff.mp hv
      exact ⟨rfl, hmode, hbytes, nofun⟩
    | sta | stx | sty | inc | dec =>
      obtain ⟨m, hm, rfl⟩ := readsAs_map_iff.mp h
      obtain ⟨hmode, hbytes⟩ := readsAs_addrOperand_iff.mp hm
      exact ⟨rfl, hmode, hbytes, nofun⟩
    | asl | lsr | rol | ror =>
      obtain ⟨o, ho, rfl⟩ := readsAs_map_iff.mp h
      obtain ⟨hmode, hbytes⟩ := readsAs_shiftOperand_iff.mp ho
      exact ⟨rfl, hmode, hbytes, nofun⟩
    | bpl | bmi | bvc | bvs | bcc | bcs | bne | beq =>
      obtain ⟨rfl, b1, b2, ht, rfl⟩ := readsAs_inMode_iff.mp h
      exact ⟨rfl, rfl, stream_of_takeOperands_one ht, nofun⟩
    | jmpAbs | jmpInd | jsr =>
      obtain ⟨rfl, b1, b2, ht, rfl⟩ := readsAs_inMode_iff.mp h
      exact ⟨rfl, rfl, by simpa [Instr.operand] using stream_of_takeOperands_two ht, nofun⟩
    | inx | iny | dex | dey | rts | clc | sec | cli | sei | clv | cld | sed | pha | pla | brk =>
      obtain ⟨rfl, b1, b2, ht, rfl⟩ := readsAs_inMode_iff.mp h
      exact ⟨rfl, rfl, stream_of_takeOperands_zero ht, nofun⟩
    | invalid =>
      obtain ⟨rfl, b1, b2, ht, rfl⟩ := readsAs_inMode_iff.mp h
      exact ⟨rfl, rfl, stream_of_takeOperands_zero ht, fun _ => rfl⟩
  · obtain ⟨k, mode⟩ := e
    rintro ⟨rfl, rfl, rfl, hinv⟩
    cases i with
    | lda v | ldx v | ldy v | adc v | sbc v | and v | ora v | eor v | cmp v | cpx v | cpy v =>
      exact readsAs_map_iff.mpr ⟨v, readsAs_valueOperand_iff.mpr ⟨rfl, rfl⟩, rfl⟩
    | sta m | stx m | sty m | inc m | dec m =>
      exact readsAs_map_iff.mpr ⟨m, readsAs_addrOperand_iff.mpr ⟨rfl, rfl⟩, rfl⟩
    | asl o | lsr o | rol o | ror o =>
      exact readsAs_map_iff.mpr ⟨o, readsAs_shiftOperand_iff.mpr ⟨rfl, rfl⟩, rfl⟩
    | bpl b | bmi b | bvc b | bvs b | bcc b | bcs b | bne b | beq b => exact ⟨b, 0, rfl, rfl⟩
    | jmpAbs w | jmpInd w | jsr w =>
      exact readsAs_inMode_iff.mpr ⟨rfl, loByte w, hiByte w, rfl, by rw [wordOf_hiByte_loByte]⟩
    | invalid op' => rw [hinv rfl]; exact ⟨0, 0, rfl, rfl⟩
    | _ => exact ⟨0, 0, rfl, rfl⟩

/-- The decoder reads the operand of the opcode byte's ROM entry (R85). -/
theorem decode_cons_iff :
    decode (op :: stream) = .ok (i, rest) ↔ ReadsAs (oprom op).mode ((oprom op).instr op) stream rest i := by
  simp only [decode, ReadsAs]
  constructor
  · intro h
    split at h
    · cases h
    · next b1 b2 rest' ht =>
      split at h
      · cases h
      · next hi => cases h; exact ⟨b1, b2, ht, hi⟩
  · rintro ⟨b1, b2, ht, hi⟩
    simp only [ht, hi]

/-! ## The opcode byte -/

theorem invalidBytes_all_sentinel : (invalidBytes.all fun op => oprom op == ⟨.invalid, .inv⟩) = true := by decide

theorem oprom_eq_of_mem_invalidBytes (h : op ∈ invalidBytes) : oprom op = ⟨.invalid, .inv⟩ :=
  eq_of_beq (List.all_eq_true.mp invalidBytes_all_sentinel op h)

/-- The map by byte pairs every handler only with modes that the table of R86 offers it in. -/
theorem oprom_mode_offered : ∀ op : Byte, (oprom op).handler.modes.contains (oprom op).mode = true := by decide

theorem eq_invalid_of_handler (h : i.handler = .invalid) : ∃ op, i = .invalid op := by
  cases i with
  | invalid op => exact ⟨op, rfl⟩
  | _ => cases h

theorem opcode_of_handler_ne (h : i.handler ≠ .invalid) : i.opcode = opcodeByte i.handler i.mode := by
  cases i with
  | invalid op => exact absurd rfl h
  | _ => rfl

theorem wellFormed_of_handler_ne (h : i.handler ≠ .invalid) :
    i.wellFormed = i.handler.modes.contains i.mode := by
  cases i with
  | invalid op => exact absurd rfl h
  | _ => exact Bool.and_true _

theorem wellFormed_invalid_iff : (Instr.invalid op).wellFormed = true ↔ op ∈ invalidBytes := by
  simp [Instr.wellFormed, Instr.handler, Instr.mode, Handler.modes]

/-- A well-formed instruction has an opcode byte. -/
theorem exists_opcode (hw : i.wellFormed = true) : ∃ op, i.opcode = some op := by
  by_cases h : i.handler = .invalid
  · obtain ⟨op, rfl⟩ := eq_invalid_of_handler h
    exact ⟨op, rfl⟩
  · rw [opcode_of_handler_ne h]
    rw [wellFormed_of_handler_ne h] at hw
    exact Option.isSome_iff_exists.mp (Laws.EncodedLength.opcodeByte_isSome _ _ h hw)

/-- The byte of a well-formed instruction in the map by mnemonic and mode is the byte whose ROM entry has its handler
and mode: the two maps are inverse (R86, R88), and an invalid opcode is its own byte (R90). -/
theorem wellFormed_opcode_iff :
    (i.wellFormed = true ∧ i.opcode = some op) ↔
      i.handler = (oprom op).handler ∧ i.mode = (oprom op).mode ∧ (i.handler = .invalid → i = .invalid op) := by
  by_cases h : i.handler = .invalid
  · obtain ⟨op', rfl⟩ := eq_invalid_of_handler h
    rw [wellFormed_invalid_iff]
    constructor
    · rintro ⟨hmem, ⟨⟩⟩
      rw [oprom_eq_of_mem_invalidBytes hmem]
      exact ⟨rfl, rfl, fun _ => rfl⟩
    · rintro ⟨hh, -, hinv⟩
      cases hinv rfl
      exact ⟨mem_invalidBytes_of_handler_invalid op hh.symm, rfl⟩
  · rw [wellFormed_of_handler_ne h, opcode_of_handler_ne h]
    constructor
    · rintro ⟨-, ho⟩
      rw [oprom_of_opcodeByte ho]
      exact ⟨rfl, rfl, fun hinv => absurd hinv h⟩
    · rintro ⟨hh, hm, -⟩
      rw [hh] at h
      rw [hh, hm]
      exact ⟨oprom_mode_offered op, opcodeByte_of_oprom op h⟩

theorem encode_of_opcode (h : i.opcode = some op) : encode i = op :: i.operand := by rw [encode, h]

/-- A list decodes to an instruction exactly when that instruction is well formed and the list begins with its
encoding. -/
theorem decode_eq_ok_iff {bytes : List Byte} :
    decode bytes = .ok (i, rest) ↔ i.wellFormed = true ∧ encode i ++ rest = bytes := by
  constructor
  · intro h
    match bytes, h with
    | op :: stream, h =>
      obtain ⟨hh, hm, hbytes, hinv⟩ := readsAs_instr_iff.mp (decode_cons_iff.mp h)
      obtain ⟨hw, ho⟩ := wellFormed_opcode_iff.mpr ⟨hh, hm, hinv⟩
      exact ⟨hw, by rw [encode_of_opcode ho, List.cons_append, hbytes]⟩
  · rintro ⟨hw, rfl⟩
    obtain ⟨op, ho⟩ := exists_opcode hw
    obtain ⟨hh, hm, hinv⟩ := wellFormed_opcode_iff.mp ⟨hw, ho⟩
    rw [encode_of_opcode ho, List.cons_append, decode_cons_iff, readsAs_instr_iff]
    exact ⟨hh, hm, rfl, hinv⟩

end

/-! ## Every byte decodes -/

section
variable (mode : Mode) (e : RomEntry) (op b1 b2 c1 c2 : Byte)

theorem isSome_addrOperand_congr : (addrOperand mode b1 b2).isSome = (addrOperand mode c1 c2).isSome := by
  cases mode <;> rfl

theorem isSome_valueOperand_congr : (valueOperand mode b1 b2).isSome = (valueOperand mode c1 c2).isSome := by
  cases mode <;> rfl

theorem isSome_shiftOperand_congr : (shiftOperand mode b1 b2).isSome = (shiftOperand mode c1 c2).isSome := by
  cases mode <;> rfl

theorem isSome_inMode_congr (want : Mode) (i j : Instr) :
    (inMode mode want i).isSome = (inMode mode want j).isSome := by
  unfold inMode
  split <;> rfl

/-- Whether a ROM entry makes an instruction does not depend on the operand bytes: none is reserved (R91). -/
theorem isSome_instr_congr : (e.instr op b1 b2).isSome = (e.instr op c1 c2).isSome := by
  obtain ⟨k, mode⟩ := e
  cases k with
  | lda | ldx | ldy | adc | sbc | and | ora | eor | cmp | cpx | cpy =>
    simpa [RomEntry.instr] using isSome_valueOperand_congr mode b1 b2 c1 c2
  | sta | stx | sty | inc | dec => simpa [RomEntry.instr] using isSome_addrOperand_congr mode b1 b2 c1 c2
  | asl | lsr | rol | ror => simpa [RomEntry.instr] using isSome_shiftOperand_congr mode b1 b2 c1 c2
  | _ => exact isSome_inMode_congr mode _ _ _

end

/-- Every entry of the opcode ROM makes an instruction (R85). -/
theorem isSome_instr_oprom : ∀ op : Byte, ((oprom op).instr op 0 0).isSome = true := by decide

/-- Two bytes are operand bytes enough for every mode (R80). -/
theorem exists_takeOperands (mode : Mode) (b1 b2 : Byte) :
    ∃ c1 c2 rest, takeOperands mode.operandBytes [b1, b2] = some (c1, c2, rest) := by
  cases mode <;> exact ⟨_, _, _, rfl⟩

end Sys2Proof.Machine
end

section
/-! SUPPORT. The encoding's statements settled: decoder and encoder are inverse (R85, R86, R88); every byte has a
meaning, so that a step always answers a next state (R91, R254); and the invalid bytes (R90). -/

namespace Sys2Proof.Machine

/-- Settles O2: one direction of `decode_eq_ok_iff`. -/
theorem decodeOfEncodeIsTheInstruction : Obligations.DecodeOfEncodeIsTheInstruction :=
  fun _ _ hw => decode_eq_ok_iff.mpr ⟨hw, rfl⟩

/-- Settles O3: the other direction of `decode_eq_ok_iff`. -/
theorem encodeOfDecodeIsTheBytes : Obligations.EncodeOfDecodeIsTheBytes :=
  fun _ _ _ h => decode_eq_ok_iff.mp h

/-- Settles O1, by evaluation of the decoder on each list. -/
theorem specWordsDecode : Obligations.SpecWordsDecode :=
  ⟨rfl, rfl, rfl, rfl, rfl, rfl, rfl, rfl, rfl, rfl, rfl, rfl, rfl, rfl, rfl, rfl, rfl, rfl⟩

/-! ## Every step answers -/

/-- Settles O4: two bytes are enough for every mode, and every ROM entry makes an instruction of any of them. -/
theorem everyOpcodeByteDecodes : Obligations.EveryOpcodeByteDecodes := by
  intro op b1 b2
  obtain ⟨c1, c2, rest, ht⟩ := exists_takeOperands (oprom op).mode b1 b2
  have hsome := (isSome_instr_congr (oprom op) op c1 c2 0 0).trans (isSome_instr_oprom op)
  obtain ⟨i, hi⟩ := Option.isSome_iff_exists.mp hsome
  exact ⟨i, rest, decode_cons_iff.mpr ⟨c1, c2, ht, hi⟩⟩

theorem exists_fetchInstr (s : State) : ∃ i, fetchInstr s = .ok i := by
  obtain ⟨i, rest, h⟩ := everyOpcodeByteDecodes (memRead s s.pc) (memRead s (s.pc + 1)) (memRead s (s.pc + 2))
  exact ⟨i, by rw [fetchInstr, fetchBytes, h]⟩

/-- A Running unit executes the instruction at the program counter (R221). -/
theorem step_of_fetchInstr {s : State} {i : Instr} (hrun : s.halt = .running) (hf : fetchInstr s = .ok i) :
    step s = exec i s := by
  simp only [step, hrun, hf]

/-- No instruction faults and none is refused (R254). -/
theorem exists_exec (i : Instr) (s : State) : ∃ t, exec i s = .next t := by
  cases i <;> exact ⟨_, rfl⟩

/-- Settles O10: a Halted unit stays as it is, and a Running one executes the instruction that every byte decodes to. -/
theorem stepAlwaysAnswersANextState : Obligations.StepAlwaysAnswersANextState := by
  intro s
  cases hhalt : s.halt with
  | halted reason => exact ⟨s, by simp only [step, hhalt]⟩
  | running =>
    obtain ⟨i, hf⟩ := exists_fetchInstr s
    rw [step_of_fetchInstr hhalt hf]
    exact exists_exec i s

/-! ## The invalid bytes -/

theorem invalidBytes_nodup : invalidBytes.Nodup := by decide

/-- A byte is listed as invalid exactly when its ROM entry has the invalid-opcode handler. -/
theorem mem_invalidBytes_iff (op : Byte) : op ∈ invalidBytes ↔ (oprom op).handler = .invalid :=
  ⟨fun h => congrArg RomEntry.handler (oprom_eq_of_mem_invalidBytes h), mem_invalidBytes_of_handler_invalid op⟩

/-- A byte is listed as invalid exactly when the map by mnemonic and mode gives it to no pair. -/
theorem mem_invalidBytes_iff_no_pair (op : Byte) :
    op ∈ invalidBytes ↔ ∀ (h : Handler) (m : Mode), opcodeByte h m ≠ some op := by
  rw [mem_invalidBytes_iff]
  constructor
  · intro hinv h m ho
    rw [oprom_of_opcodeByte ho] at hinv
    cases hinv
    rw [opcodeByte_invalid] at ho
    cases ho
  · intro hnone
    by_contra hvalid
    exact hnone _ _ (opcodeByte_of_oprom op hvalid)

theorem mnemonic_eq_sentinel_iff (h : Handler) : h.mnemonic = "???" ↔ h = .invalid := by
  cases h <;> decide

/-- A Running unit halts on an invalid byte, with the byte's address (R211). -/
theorem step_halts_of_mem_invalidBytes {s : State} (hrun : s.halt = .running) (hmem : memRead s s.pc ∈ invalidBytes) :
    ∃ t, step s = .next t ∧ t.halt = .halted (.invalidOpcode s.pc) := by
  obtain ⟨i, hf⟩ := exists_fetchInstr s
  have hinv : i.handler = .invalid := (handler_of_fetchInstr hf).trans ((mem_invalidBytes_iff _).mp hmem)
  obtain ⟨op, rfl⟩ := eq_invalid_of_handler hinv
  exact ⟨_, step_of_fetchInstr hrun hf, rfl⟩

/-- Settles O5: each clause turns on the handler of the byte's ROM entry. -/
theorem invalidBytesAreTheListed117 : Obligations.InvalidBytesAreTheListed117 := by
  refine ⟨rfl, invalidBytes_nodup, mem_invalidBytes_iff_no_pair, fun op => ?_, fun op => ?_, fun s hrun hmem => ?_⟩
  · exact ⟨oprom_eq_of_mem_invalidBytes, fun h => (mem_invalidBytes_iff op).mpr (congrArg RomEntry.handler h)⟩
  · exact (mem_invalidBytes_iff op).trans (mnemonic_eq_sentinel_iff _).symm
  · exact step_halts_of_mem_invalidBytes hrun hmem

end Sys2Proof.Machine
end

section
/-! SUPPORT. The fetch of one instruction: what Fetch8 and Fetch16 read and leave (R100, R101), and which bytes the
fetched instruction is encoded in (R80, R89, R118). -/

namespace Sys2Proof.Machine

/-! ## Fetch8 and Fetch16 -/

theorem fetch8_setPc (s : State) (a : Word) : fetch8 (s.setPc a) = (memRead s a, s.setPc (a + 1)) := rfl

/-- `Fetch16()` at address `a` reads the low byte there and the high byte at `a + 1`, and moves past both. -/
theorem fetch16_setPc (s : State) (a : Word) :
    fetch16 (s.setPc a) = (wordOf (memRead s (a + 1)) (memRead s a), s.setPc (a + 2)) := by
  have hpc : a + 1 + 1 = a + 2 := BitVec.add_assoc a 1 1
  rw [← hpc]
  rfl

/-! ## The bytes of the fetched instruction -/

/-- An instruction has as many operand bytes as its mode says (R89). -/
theorem operand_length (i : Instr) : i.operand.length = i.mode.operandBytes := by
  cases i with
  | lda v | ldx v | ldy v | adc v | sbc v | and v | ora v | eor v | cmp v | cpx v | cpy v =>
    exact Laws.EncodedLength.value_bytes v
  | sta m | stx m | sty m | inc m | dec m => exact Laws.EncodedLength.addr_bytes m
  | asl o | lsr o | rol o | ror o => exact Laws.EncodedLength.shift_bytes o
  | _ => rfl

theorem fetchInstr_eq_ok_iff {s : State} {i : Instr} :
    fetchInstr s = .ok i ↔ ∃ rest, decode (fetchBytes s) = .ok (i, rest) := by
  unfold fetchInstr
  constructor
  · intro h
    split at h
    · next rest hd => cases h; exact ⟨rest, hd⟩
    · cases h
  · rintro ⟨rest, hd⟩
    rw [hd]

/-- The fetched instruction has the mode of the opcode byte's ROM entry, and is encoded in that byte and as many of
the bytes after it as the mode has operand bytes. -/
theorem mode_and_encode_of_fetchInstr {s : State} {i : Instr} (h : fetchInstr s = .ok i) :
    i.mode = (oprom (memRead s s.pc)).mode ∧
      encode i = memRead s s.pc :: [memRead s (s.pc + 1), memRead s (s.pc + 2)].take i.mode.operandBytes := by
  obtain ⟨rest, hd⟩ := fetchInstr_eq_ok_iff.mp h
  obtain ⟨hhandler, hmode, hoperand, hinv⟩ := readsAs_instr_iff.mp (decode_cons_iff.mp hd)
  obtain ⟨-, hop⟩ := wellFormed_opcode_iff.mpr ⟨hhandler, hmode, hinv⟩
  exact ⟨hmode, by rw [encode_of_opcode hop, ← hoperand, List.take_left' (operand_length i)]⟩

/-- Settles O7: the fetched instruction's bytes are those at `pc` onward, and so are the ones Fetch8 and Fetch16 read;
one case for each number of operand bytes. -/
theorem fetchTakesOpcodeThenOperandBytesInOrder : Obligations.FetchTakesOpcodeThenOperandBytesInOrder := by
  intro s i h
  obtain ⟨hmode, hencode⟩ := mode_and_encode_of_fetchInstr h
  have hop : fetch8 s = (memRead s s.pc, s.setPc (s.pc + 1)) := rfl
  rw [hop, ← hmode, hencode, fetched]
  refine ⟨rfl, rfl, fun hn => ?_, fun hn => ?_, fun hn => ?_⟩ <;> rw [hn]
  · exact ⟨rfl, rfl⟩
  · rw [fetch8_setPc, BitVec.add_assoc]
    exact ⟨rfl, rfl⟩
  · rw [fetch16_setPc, BitVec.add_assoc, BitVec.add_assoc, loByte_wordOf, hiByte_wordOf]
    exact ⟨rfl, rfl⟩

end Sys2Proof.Machine
end

section
/-! SUPPORT. The addressing-mode resolver's statements settled: pointer reads (R102, R103) and effective addresses
(R105 to R116, R170), each operation as arithmetic on natural numbers. -/

namespace Sys2Proof.Machine

/-! ## Pointer reads -/

/-- `Read16(a)` is little-endian, its high byte at `(a + 1) mod 65536` (R102). -/
theorem read16_toNat (s : State) (a : Word) :
    (read16 s a).toNat = 256 * (s.mem.read ((a.toNat + 1) % 65536)).toNat + (s.mem.read a.toNat).toNat := by
  rw [read16, wordOf_toNat, memRead, memRead, BitVec.toNat_add]
  rfl

/-- `Read16ZP(p)` is little-endian, its high byte at `(p + 1) mod 256` in page 0 (R103). -/
theorem read16ZP_toNat (s : State) (p : Byte) :
    (read16ZP s p).toNat = 256 * (s.mem.read ((p.toNat + 1) % 256)).toNat + (s.mem.read p.toNat).toNat := by
  rw [read16ZP, wordOf_toNat, memRead, memRead, zext16_toNat, zext16_toNat, BitVec.toNat_add]
  rfl

/-- Settles O19, by the two reads as arithmetic. -/
theorem pointerReadsAreLittleEndianAndWrap : Obligations.PointerReadsAreLittleEndianAndWrap :=
  fun s a p => ⟨read16_toNat s a, read16ZP_toNat s p⟩

/-! ## Effective addresses -/

/-- Zero-page indexing wraps in page 0 (R107, R108). -/
theorem zext16_add_toNat (b index : Byte) : (zext16 (b + index)).toNat = (b.toNat + index.toNat) % 256 := by
  rw [zext16_toNat, BitVec.toNat_add]

/-- Absolute and indirect indexing wraps modulo 65536 (R110, R111, R113). -/
theorem indexed_toNat (a : Word) (index : Byte) : (indexed a index).toNat = (a.toNat + index.toNat) % 65536 := by
  rw [indexed, BitVec.toNat_add, zext16_toNat]

/-- The pointer of the indexed indirect mode is indexed in page 0 and read in page 0 (R112). -/
theorem resolveAddr_indx_toNat (s : State) (b : Byte) :
    (resolveAddr (.indx b) s).toNat =
      256 * (s.mem.read ((b.toNat + s.x.toNat + 1) % 256)).toNat +
        (s.mem.read ((b.toNat + s.x.toNat) % 256)).toNat := by
  rw [resolveAddr, read16ZP_toNat, BitVec.toNat_add, Nat.mod_add_mod]

/-- The pointer of the indirect indexed mode is read in page 0, and the index is added to the word it gives (R113). -/
theorem resolveAddr_indy_toNat (s : State) (b : Byte) :
    (resolveAddr (.indy b) s).toNat =
      (256 * (s.mem.read ((b.toNat + 1) % 256)).toNat + (s.mem.read b.toNat).toNat + s.y.toNat) % 65536 := by
  rw [resolveAddr, indexed_toNat, read16ZP_toNat]

/-- Settles O20, mode by mode; the values read are the resolver's definitions (R105, R116, R170). -/
theorem effectiveAddressesFollowTheMode : Obligations.EffectiveAddressesFollowTheMode := by
  intro s b w m
  exact ⟨zext16_toNat b, zext16_add_toNat b s.x, zext16_add_toNat b s.y, rfl, indexed_toNat w s.x,
    indexed_toNat w s.y, resolveAddr_indx_toNat s b, resolveAddr_indy_toNat s b, read16_toNat s w,
    rfl, rfl, rfl, rfl⟩

end Sys2Proof.Machine
end

section
/-! SUPPORT. The arithmetic/flag unit's statements settled (R120 to R126): each primitive as arithmetic on natural
numbers, V as signed overflow, and the rotations as rotations of nine bits. -/

namespace Sys2Proof.Machine

/-! ## N and Z -/

/-- `SetNZ` makes N and Z follow its byte (R120). -/
theorem nzFollow_setNZ (v : Byte) (f : Flags) : NZFollow v (setNZ v f) := ⟨msb_iff v, beq_zero_iff v⟩

/-- Settles O22: N and Z follow the byte, and no byte is both negative and zero. -/
theorem setNZFollowsTheByte : Obligations.SetNZFollowsTheByte :=
  fun v f => ⟨nzFollow_setNZ v f, not_msb_and_zero v, rfl⟩

/-! ## The overflow rule -/

theorem msb_eq_msb_iff (a b : Byte) : a.msb = b.msb ↔ (128 ≤ a.toNat ↔ 128 ≤ b.toNat) := by
  rw [Bool.eq_iff_iff, msb_iff, msb_iff]

/-- The overflow rule on sign bits (R121). -/
theorem overflow_iff_msb (a b r : Byte) : overflow a b r = true ↔ a.msb = b.msb ∧ r.msb ≠ a.msb := by
  simp [overflow]

/-- The overflow rule on unsigned values: a sign bit is set from 128 on. -/
theorem overflow_iff (a b r : Byte) :
    overflow a b r = true ↔ (128 ≤ a.toNat ↔ 128 ≤ b.toNat) ∧ ¬(128 ≤ r.toNat ↔ 128 ≤ a.toNat) := by
  rw [overflow_iff_msb, Ne, msb_eq_msb_iff, msb_eq_msb_iff]

/-- The overflow rule as a bit formula (R122 c). -/
theorem overflow_eq_msb_xor (a b r : Byte) : overflow a b r = ((a ^^^ r) &&& (b ^^^ r)).msb := by
  rw [overflow, BitVec.msb_and, BitVec.msb_xor, BitVec.msb_xor]
  cases a.msb <;> cases b.msb <;> cases r.msb <;> rfl

/-- The signed value of a byte is its unsigned value, less 256 from 128 on. -/
theorem toInt_eq_ite (a : Byte) : a.toInt = if 128 ≤ a.toNat then (a.toNat : Int) - 256 else a.toNat := by
  rw [BitVec.toInt_eq_msb_cond]
  simp only [msb_iff]
  rfl

/-- Where `r` is the sum modulo 256, the overflow rule says that the signed sum is no signed byte (R122 b). -/
theorem overflow_iff_signed_sum {a b r : Byte} {cin : Bool} (hr : r.toNat = (a.toNat + b.toNat + cin.toNat) % 256) :
    overflow a b r = true ↔ a.toInt + b.toInt + cin.toNat < -128 ∨ 127 < a.toInt + b.toInt + cin.toNat := by
  have hcin := cin.toNat_le
  rw [overflow_iff, toInt_eq_ite, toInt_eq_ite]
  omega

/-! ## Addition -/

section
variable (a b : Byte) (cin : Bool)

theorem add_r_toNat : (add a b cin).r.toNat = (a.toNat + b.toNat + cin.toNat) % 256 := BitVec.toNat_ofNat _ 8

/-- The intermediate sum has nine bits, so its bit 8 says that it has reached 256. -/
theorem add_c_iff : (add a b cin).c = true ↔ 256 ≤ a.toNat + b.toNat + cin.toNat := by
  have hcin := cin.toNat_le
  simp only [add, Nat.testBit_eq_decide_div_mod_eq, decide_eq_true_eq]
  omega

theorem add_c_eq : (add a b cin).c = decide (256 ≤ a.toNat + b.toNat + cin.toNat) := by
  rw [Bool.eq_iff_iff, add_c_iff, decide_eq_true_eq]

theorem add_v_eq : (add a b cin).v = overflow a b (add a b cin).r := rfl

/-- The carry and the result are the whole sum (R122 a). -/
theorem add_exact : a.toNat + b.toNat + cin.toNat = 256 * (add a b cin).c.toNat + (add a b cin).r.toNat := by
  have hcin := cin.toNat_le
  rw [add_r_toNat, add_c_eq]
  by_cases h : 256 ≤ a.toNat + b.toNat + cin.toNat
  · rw [decide_eq_true h, Bool.toNat_true]
    omega
  · rw [decide_eq_false h, Bool.toNat_false]
    omega

/-- V says that the carries into and out of bit 7 differ (R122 c). -/
theorem add_v_eq_carry_xor : (add a b cin).v =
    (decide (128 ≤ a.toNat % 128 + b.toNat % 128 + cin.toNat)).xor (add a b cin).c := by
  have hcin := cin.toNat_le
  rw [Bool.eq_iff_iff, add_v_eq, overflow_iff, add_r_toNat, add_c_eq, Bool.xor_iff_ne]
  simp only [ne_eq, decide_eq_decide]
  omega

end

/-- Settles O23: V is the overflow rule on the sum, whose forms are the lemmas above. -/
theorem addObeysItsLaws : Obligations.AddObeysItsLaws :=
  fun a b cin => ⟨add_r_toNat a b cin, add_c_iff a b cin, add_exact a b cin, overflow_iff_msb a b _,
    overflow_iff_signed_sum (add_r_toNat a b cin), overflow_eq_msb_xor a b _, add_v_eq_carry_xor a b cin⟩

/-! ## Negate-add -/

/-- The negation of `m` kept to nine bits is `256 - m` (R123). -/
theorem negation_toNat (m : Byte) : (m ^^^ 0xFF#8).toNat + 1 = 256 - m.toNat := by
  have hnot : m ^^^ 0xFF#8 = ~~~m := BitVec.xor_allOnes
  rw [hnot, BitVec.toNat_not]
  omega

/-- The byte 0x80 is its own negation; every other byte's negation has the negated signed value. -/
theorem toInt_negation (m : Byte) :
    (BitVec.ofNat 8 (256 - m.toNat)).toInt = if m = 0x80#8 then -128 else -m.toInt := by
  have h80 : m = 0x80#8 ↔ m.toNat = 128 := BitVec.toNat_eq
  rw [toInt_eq_ite, toInt_eq_ite, BitVec.toNat_ofNat]
  simp only [h80]
  omega

section
variable (a m : Byte) (cin : Bool)

theorem negAdd_r_toNat : (negAdd a m cin).r.toNat = (a.toNat + (256 - m.toNat) + cin.toNat) % 256 := by
  rw [← negation_toNat m]
  exact BitVec.toNat_ofNat _ 8

theorem negAdd_v_eq : (negAdd a m cin).v = overflow a (BitVec.ofNat 8 (256 - m.toNat)) (negAdd a m cin).r := by
  rw [← negation_toNat m]
  rfl

/-- The carry is 1 exactly when there is no borrow (R123). -/
theorem negAdd_c_iff : (negAdd a m cin).c = true ↔ m.toNat ≤ a.toNat + cin.toNat := by
  simp only [negAdd, decide_eq_true_eq, negation_toNat]
  omega

/-- V is signed overflow of the sum with the negated operand. -/
theorem negAdd_v_iff_signed_sum : (negAdd a m cin).v = true ↔
    a.toInt + (if m = 0x80#8 then -128 else -m.toInt) + cin.toNat < -128 ∨
      127 < a.toInt + (if m = 0x80#8 then -128 else -m.toInt) + cin.toNat := by
  rw [negAdd_v_eq, ← toInt_negation]
  refine overflow_iff_signed_sum ?_
  rw [negAdd_r_toNat, BitVec.toNat_ofNat]
  omega

end

/-- Settles O24: the negated operand has the negated signed value but at 0x80, where it is 256 too small. -/
theorem negAddObeysItsClosedForms : Obligations.NegAddObeysItsClosedForms := by
  intro a m cin
  refine ⟨?_, negAdd_c_iff a m cin, ?_, fun h80 => ?_, fun h80 => ?_⟩
  · rw [negAdd_r_toNat]
    omega
  · rw [negAdd_v_eq, overflow_iff, BitVec.toNat_ofNat]
  · rw [negAdd_v_iff_signed_sum, if_neg h80]
    rfl
  · have hlo := a.le_toInt
    have hhi := a.toInt_lt
    have hcin := cin.toNat_le
    have hm80 : m.toInt = -128 := congrArg BitVec.toInt h80
    rw [negAdd_v_iff_signed_sum, if_pos h80, hm80]
    omega

/-- Settles O25: the difference modulo 256 is 0 only for equal bytes. -/
theorem compareSetsCarryZeroNegativeOverflow : Obligations.CompareSetsCarryZeroNegativeOverflow := by
  intro reg m f g
  have hr := negAdd_r_toNat reg m false
  refine ⟨negAdd_c_iff reg m false, (beq_zero_iff _).trans ?_, (msb_iff _).trans ?_, rfl, rfl⟩
  · rw [hr, BitVec.toNat_eq, Bool.toNat_false]
    omega
  · rw [hr, Bool.toNat_false]
    omega

/-! ## Shift and rotate -/

theorem getLsbD_seven_iff (v : Byte) : v.getLsbD 7 = true ↔ 128 ≤ v.toNat := by
  rw [← msb_iff, BitVec.msb_eq_getLsbD_last]

theorem getLsbD_zero_iff (v : Byte) : v.getLsbD 0 = true ↔ v.toNat % 2 = 1 := by
  rw [BitVec.getLsbD, Nat.testBit_zero, decide_eq_true_eq]

section
variable (old : Byte) (cin : Bool)

theorem shift_asl_toNat : (shift .asl old cin).1.toNat = 2 * old.toNat % 256 := by
  simp only [shift, BitVec.toNat_ofNat]
  omega

theorem shift_lsr_toNat : (shift .lsr old cin).1.toNat = old.toNat / 2 := by
  simp only [shift, BitVec.toNat_ofNat]
  omega

theorem shift_rol_toNat : (shift .rol old cin).1.toNat = 2 * old.toNat % 256 + cin.toNat := by
  have hcin := cin.toNat_le
  simp only [shift, BitVec.toNat_ofNat]
  omega

theorem shift_ror_toNat : (shift .ror old cin).1.toNat = old.toNat / 2 + 128 * cin.toNat := by
  have hcin := cin.toNat_le
  simp only [shift, BitVec.toNat_ofNat]
  omega

/-! ## Nine rotations -/

/-- ROL puts the carry in bit 0 and moves the lower seven bits up by one. -/
theorem shift_rol_getLsbD (k : Nat) (hk : k < 8) :
    (shift .rol old cin).1.getLsbD k = if k = 0 then cin else old.getLsbD (k - 1) := by
  have hsum : (shift .rol old cin).1.toNat = 2 ^ 1 * (old.toNat % 2 ^ 7) + cin.toNat := by
    rw [shift_rol_toNat]
    omega
  rw [BitVec.getLsbD, hsum, Nat.testBit_two_pow_mul_add _ cin.toNat_lt, Nat.testBit_mod_two_pow, BitVec.getLsbD]
  split
  · next hlt =>
    obtain rfl : k = 0 := by omega
    exact Nat.testBit_bool_toNat cin 0
  · next hpos =>
    rw [if_neg (by omega), decide_eq_true (by omega), Bool.true_and]

/-- ROR moves the upper seven bits down by one and puts the carry in bit 7. -/
theorem shift_ror_getLsbD (k : Nat) (hk : k < 8) :
    (shift .ror old cin).1.getLsbD k = if k = 7 then cin else old.getLsbD (k + 1) := by
  have hhalf : old.toNat / 2 < 2 ^ 7 := by
    omega
  have hsum : (shift .ror old cin).1.toNat = 2 ^ 7 * cin.toNat + old.toNat / 2 := by
    rw [shift_ror_toNat]
    omega
  rw [BitVec.getLsbD, hsum, Nat.testBit_two_pow_mul_add _ hhalf, Nat.testBit_div_two, BitVec.getLsbD]
  split
  · next hlt => rw [if_neg (by omega)]
  · next htop =>
    obtain rfl : k = 7 := by omega
    exact Nat.testBit_bool_toNat cin 0

end

/-- A byte and a carry as one string of nine bits, the carry on top. -/
def nineBit (p : Byte × Bool) (k : Nat) : Bool := if k = 8 then p.2 else p.1.getLsbD k

theorem nineBit_of_lt (p : Byte × Bool) {k : Nat} (hk : k < 8) : nineBit p k = p.1.getLsbD k := if_neg (by omega)

theorem eq_of_nineBit {p q : Byte × Bool} (h : ∀ k < 9, nineBit p k = nineBit q k) : p = q := by
  refine Prod.ext (BitVec.eq_of_getLsbD_eq fun k hk => ?_) (h 8 (by decide))
  rw [← nineBit_of_lt p hk, ← nineBit_of_lt q hk]
  exact h k (by omega)

section
variable {f : Byte × Bool → Byte × Bool} {m : Nat}

/-- A map that rotates the nine bits by `m` places rotates them by `n * m` when applied `n` times. -/
theorem nineBit_iterate (hf : ∀ p, ∀ k < 9, nineBit (f p) k = nineBit p ((k + m) % 9)) (p : Byte × Bool)
    (n k : Nat) (hk : k < 9) : nineBit (f^[n] p) k = nineBit p ((k + n * m) % 9) := by
  induction n generalizing k with
  | zero => rw [Nat.zero_mul, Nat.add_zero, Nat.mod_eq_of_lt hk]; rfl
  | succ n ih =>
    rw [Function.iterate_succ_apply', hf _ k hk, ih _ (Nat.mod_lt _ (by decide)), Nat.mod_add_mod, Nat.succ_mul,
      Nat.add_assoc, Nat.add_comm m]

/-- Nine rotations of the nine bits restore them. -/
theorem iterate_nine_of_rotates (hf : ∀ p, ∀ k < 9, nineBit (f p) k = nineBit p ((k + m) % 9)) (p : Byte × Bool) :
    f^[9] p = p := by
  refine eq_of_nineBit fun k hk => ?_
  rw [nineBit_iterate hf p 9 k hk, Nat.add_mul_mod_self_left, Nat.mod_eq_of_lt hk]

end

/-- ROL moves each of the nine bits up by one place, the top one to the bottom (R126). -/
theorem nineBit_rol (p : Byte × Bool) (k : Nat) (hk : k < 9) :
    nineBit (shift .rol p.1 p.2) k = nineBit p ((k + 8) % 9) := by
  obtain rfl | rfl | ⟨hpos, hlt⟩ : k = 0 ∨ k = 8 ∨ 0 < k ∧ k < 8 := by omega
  · exact shift_rol_getLsbD p.1 p.2 0 (by decide)
  · rfl
  · have hdown : (k + 8) % 9 = k - 1 := by omega
    rw [hdown, nineBit_of_lt _ hlt, nineBit_of_lt _ (by omega), shift_rol_getLsbD _ _ _ hlt, if_neg (by omega)]

/-- ROR moves each of the nine bits down by one place, the bottom one to the top (R126). -/
theorem nineBit_ror (p : Byte × Bool) (k : Nat) (hk : k < 9) :
    nineBit (shift .ror p.1 p.2) k = nineBit p ((k + 1) % 9) := by
  obtain rfl | rfl | hlt : k = 7 ∨ k = 8 ∨ k < 7 := by omega
  · exact shift_ror_getLsbD p.1 p.2 7 (by decide)
  · rfl
  · rw [Nat.mod_eq_of_lt (by omega), nineBit_of_lt _ (by omega), nineBit_of_lt _ (by omega),
      shift_ror_getLsbD _ _ _ (by omega), if_neg (by omega)]

/-- Settles O26: each new byte as arithmetic, and ROL and ROR as rotations of nine bits by one place. -/
theorem shiftMovesOneBit : Obligations.ShiftMovesOneBit := by
  refine ⟨fun old cin => ?_, fun new c f => ⟨nzFollow_setNZ new _, rfl⟩⟩
  exact ⟨shift_asl_toNat old cin, shift_lsr_toNat old cin, shift_rol_toNat old cin, shift_ror_toNat old cin,
    getLsbD_seven_iff old, getLsbD_seven_iff old, getLsbD_zero_iff old, getLsbD_zero_iff old, rfl, rfl,
    iterate_nine_of_rotates nineBit_rol _, iterate_nine_of_rotates nineBit_ror _⟩

end Sys2Proof.Machine
end

section
/-! SUPPORT. Noninterference of the flags B, D and I (R26, R125, R256, R268): each operation commutes with a change
of their values. -/

namespace Sys2Proof.Machine

/-- The state with other values of the three flags that no instruction reads. -/
def State.withIdle (b d i : Bool) (s : State) : State := s.setFlags { s.flags with b := b, d := d, i := i }

theorem sameButIdleFlags_iff {s s' : State} :
    SameButIdleFlags s s' ↔ s' = s.withIdle s'.flags.b s'.flags.d s'.flags.i := Iff.rfl

section
variable (b d i : Bool) (s : State)

theorem fetchInstr_withIdle : fetchInstr (s.withIdle b d i) = fetchInstr s := rfl

theorem resolveAddr_withIdle (m : AddrOperand) : resolveAddr m (s.withIdle b d i) = resolveAddr m s := by
  cases m <;> rfl

theorem resolveValue_withIdle (v : ValueOperand) : resolveValue v (s.withIdle b d i) = resolveValue v s := by
  cases v with
  | imm => rfl
  | mem m => exact congrArg (memRead s) (resolveAddr_withIdle b d i s m)

theorem store_withIdle (v : Byte) (dst : AddrOperand) :
    store v dst (s.withIdle b d i) = (store v dst s).withIdle b d i := by
  rw [store_eq, resolveAddr_withIdle]; rfl

theorem addSub_withIdle (alu : Byte → Byte → Bool → AluResult) (src : ValueOperand) :
    addSub alu src (s.withIdle b d i) = (addSub alu src s).withIdle b d i := by
  rw [addSub_eq, resolveValue_withIdle]; rfl

theorem modifyMem_withIdle (f : Byte → Byte) (dst : AddrOperand) :
    modifyMem f dst (s.withIdle b d i) = (modifyMem f dst s).withIdle b d i := by
  rw [modifyMem_eq, resolveAddr_withIdle]; rfl

theorem logical_withIdle (op : Byte → Byte → Byte) (src : ValueOperand) :
    logical op src (s.withIdle b d i) = (logical op src s).withIdle b d i := by
  rw [logical_eq, resolveValue_withIdle]; rfl

theorem compareReg_withIdle (reg : Byte) (src : ValueOperand) :
    compareReg reg src (s.withIdle b d i) = (compareReg reg src s).withIdle b d i := by
  rw [compareReg_eq, resolveValue_withIdle]; rfl

theorem shiftRotate_withIdle (kind : ShiftKind) (o : ShiftOperand) :
    shiftRotate kind o (s.withIdle b d i) = (shiftRotate kind o s).withIdle b d i := by
  cases o with
  | acc => rfl
  | mem m => rw [shiftRotate_mem, resolveAddr_withIdle]; rfl

end

/-- An instruction does the same for all values of B, D and I, but that it may write D or I (R26). -/
theorem exec_withIdle {ins : Instr} {s t : State} (b d i : Bool) (h : exec ins s = .next t) :
    ∃ b' d' i', exec ins (s.withIdle b d i) = .next (t.withIdle b' d' i') := by
  cases ins with
  | lda v | ldx v | ldy v =>
    cases h
    exact ⟨b, d, i, by simp only [exec, execLda, execLdx, execLdy, load, resolveValue_withIdle]; rfl⟩
  | sta m | stx m | sty m => cases h; exact ⟨b, d, i, congrArg _ (store_withIdle ..)⟩
  | adc v | sbc v => cases h; exact ⟨b, d, i, congrArg _ (addSub_withIdle ..)⟩
  | inc m | dec m => cases h; exact ⟨b, d, i, congrArg _ (modifyMem_withIdle ..)⟩
  | and v | ora v | eor v => cases h; exact ⟨b, d, i, congrArg _ (logical_withIdle ..)⟩
  | cmp v | cpx v | cpy v => cases h; exact ⟨b, d, i, congrArg _ (compareReg_withIdle ..)⟩
  | asl o | lsr o | rol o | ror o => cases h; exact ⟨b, d, i, congrArg _ (shiftRotate_withIdle ..)⟩
  | _ => cases h; exact ⟨_, _, _, rfl⟩

theorem step_of_halted {s : State} {reason : HaltReason} (hhalt : s.halt = .halted reason) : step s = .next s := by
  simp only [step, hhalt]

theorem step_withIdle {s t : State} (b d i : Bool) (h : step s = .next t) :
    ∃ b' d' i', step (s.withIdle b d i) = .next (t.withIdle b' d' i') := by
  cases hhalt : s.halt with
  | halted reason =>
    rw [step_of_halted hhalt] at h
    cases h
    exact ⟨b, d, i, step_of_halted hhalt⟩
  | running =>
    obtain ⟨ins, hf⟩ := exists_fetchInstr s
    have hf' : fetchInstr (s.withIdle b d i) = .ok ins := (fetchInstr_withIdle b d i s).trans hf
    rw [step_of_fetchInstr hhalt hf] at h
    rw [step_of_fetchInstr (s := s.withIdle b d i) hhalt hf']
    exact exec_withIdle b d i h

/-- Settles O53: the step fetches the same instruction and executes it the same way. -/
theorem decimalInterruptAndBreakFlagsInfluenceNothing :
    Obligations.DecimalInterruptAndBreakFlagsInfluenceNothing := by
  intro s s' t hs h
  rw [sameButIdleFlags_iff.mp hs]
  obtain ⟨b, d, i, hstep⟩ := step_withIdle s'.flags.b s'.flags.d s'.flags.i h
  exact ⟨_, hstep, sameButIdleFlags_iff.mpr rfl⟩

end Sys2Proof.Machine
end

section
/-! SUPPORT. What the statements of the instruction families share: the opcode bytes of a handler as a list of cells
(R86), the program counter past the instruction (R23), and a store to one address (R54). -/

namespace Sys2Proof.Machine

/-! ## The opcode bytes of a handler -/

/-- Looking up a key in the pairs that `f` gives on a list of keys is applying `f`, where `f` answers on these keys
alone. -/
theorem lookup_filterMap_graph {α β : Type} [DecidableEq α] (f : α → Option β) {keys : List α} {a : α}
    (ha : a ∉ keys → f a = none) : (keys.filterMap fun k => (f k).map (k, ·)).lookup a = f a := by
  induction keys with
  | nil => exact (ha List.not_mem_nil).symm
  | cons k keys ih =>
    by_cases hak : a = k
    · subst hak
      cases hf : f a with
      | none => simpa [hf] using ih fun _ => hf
      | some b => simp [hf]
    · have ih := ih fun hmem => ha (List.not_mem_cons_of_ne_of_not_mem hak hmem)
      cases hf : f k with
      | none => simpa [hf] using ih
      | some b => simpa [hf, List.lookup_cons, beq_false_of_ne hak] using ih

/-- The row of a handler in the table of R86: each mode it is offered in, with the opcode byte. -/
def opcodeCells (h : Handler) : List (Mode × Byte) := h.modes.filterMap fun m => (opcodeByte h m).map (m, ·)

/-- A handler has an opcode byte only in the modes it is offered in (R86). -/
theorem mem_modes_of_opcodeByte {h : Handler} {m : Mode} {op : Byte} (ho : opcodeByte h m = some op) :
    m ∈ h.modes := by
  have hoffered := oprom_mode_offered op
  rw [oprom_of_opcodeByte ho] at hoffered
  exact List.contains_iff_mem.mp hoffered

/-- The opcode byte of a handler in a mode is the one its row of R86 lists; where the row has no cell there is none. -/
theorem opcodeByte_eq_lookup (h : Handler) (m : Mode) : opcodeByte h m = (opcodeCells h).lookup m := by
  refine (lookup_filterMap_graph (opcodeByte h) fun hm => ?_).symm
  exact Option.eq_none_iff_forall_ne_some.mpr fun _ ho => hm (mem_modes_of_opcodeByte ho)

/-! ## The program counter and memory -/

/-- The program counter is past the instruction when it is where the fetch of its bytes left it. -/
theorem pcPast_of_pc_eq {i : Instr} {s t : State} (hpc : t.pc = (fetched i.mode s).pc) : PcPast i s t := by
  rw [PcPast, hpc]
  exact fetched_pc_toNat i.mode s

theorem storedOnly_memWrite (addr : Word) (v : Byte) (s : State) : StoredOnly addr v s (memWrite addr v s) :=
  ⟨memRead_memWrite_same s addr v, fun _ hb => memRead_memWrite_other s v hb⟩

end Sys2Proof.Machine
end

section
/-! SUPPORT. Load and store settled (R141 to R146). -/

namespace Sys2Proof.Machine

/-! ## Loads -/

/-- Settles O28: a load is three updates of the state, so its frame is a record equation, and each opcode clause is
the handler's row of R86. -/
theorem loadsWriteTheRegisterAndNZ : Obligations.LoadsWriteTheRegisterAndNZ := by
  intro v s
  have hnz : NZFollow (resolveValue v s) (setNZ (resolveValue v s) s.flags) := nzFollow_setNZ _ _
  refine ⟨?lda, ?ldx, ?ldy, ?ldaOpcode, ?ldxOpcode, ?ldyOpcode⟩
  case lda => exact ⟨load State.setA v s, rfl, rfl, hnz, pcPast_of_pc_eq rfl, rfl⟩
  case ldx => exact ⟨load State.setX v s, rfl, rfl, hnz, pcPast_of_pc_eq rfl, rfl⟩
  case ldy => exact ⟨load State.setY v s, rfl, rfl, hnz, pcPast_of_pc_eq rfl, rfl⟩
  case ldaOpcode => exact opcodeByte_eq_lookup .lda v.mode
  case ldxOpcode => exact opcodeByte_eq_lookup .ldx v.mode
  case ldyOpcode => exact opcodeByte_eq_lookup .ldy v.mode

/-! ## Stores -/

/-- An instruction that stores `v` at an operand in its own mode completes, and changes one byte of memory and the
program counter alone (R140). -/
theorem completes_of_exec_eq_store {i : Instr} {v : Byte} {m : AddrOperand} {s : State}
    (hexec : exec i s = .next (store v m s)) (hmode : i.mode = m.mode) :
    ∃ t, exec i s = .next t ∧ StoredOnly (resolveAddr m s) v s t ∧ PcPast i s t ∧
      t = { s with pc := t.pc, mem := t.mem } :=
  ⟨store v m s, hexec, storedOnly_memWrite _ v (fetched m.mode s), pcPast_of_pc_eq (by rw [hmode]; rfl), rfl⟩

/-- Settles O29: the three stores are one operation on three registers, and each opcode clause is the handler's row
of R86. -/
theorem storesWriteOneByteSilently : Obligations.StoresWriteOneByteSilently := by
  intro m s
  refine ⟨?sta, ?stx, ?sty, ?staOpcode, ?stxOpcode, ?styOpcode⟩
  case sta | stx | sty => exact completes_of_exec_eq_store rfl rfl
  case staOpcode => exact opcodeByte_eq_lookup .sta m.mode
  case stxOpcode => exact opcodeByte_eq_lookup .stx m.mode
  case styOpcode => exact opcodeByte_eq_lookup .sty m.mode

end Sys2Proof.Machine
end

section
/-! SUPPORT. Add and subtract with carry, increment and decrement settled (R151 to R158). -/

namespace Sys2Proof.Machine

/-! ## Add and subtract with carry -/

/-- Settles O30: the ALU's sum is exact, its overflow is that of the signed sum, and the instruction is three updates
of the state. -/
theorem adcAddsOperandAndCarry : Obligations.AdcAddsOperandAndCarry := by
  intro v s
  have hsum := add_exact s.a (resolveValue v s) s.flags.c
  have hover := overflow_iff_signed_sum (add_r_toNat s.a (resolveValue v s) s.flags.c)
  refine ⟨?completes, ?opcode⟩
  case completes => exact ⟨addSub add v s, rfl, hsum, hover, nzFollow_setNZ _ _, pcPast_of_pc_eq rfl, rfl⟩
  case opcode => exact opcodeByte_eq_lookup .adc v.mode

/-- Settles O31: the closed forms of negate-add, under the carry of the old state. -/
theorem sbcSubtractsOperandAndAddsCarry : Obligations.SbcSubtractsOperandAndAddsCarry := by
  intro v s
  obtain ⟨hdiff, hcarry, hover, -, -⟩ := negAddObeysItsClosedForms s.a (resolveValue v s) s.flags.c
  refine ⟨?completes, ?opcode⟩
  case completes =>
    exact ⟨addSub negAdd v s, rfl, hdiff, hcarry, hover, nzFollow_setNZ _ _, pcPast_of_pc_eq rfl, rfl⟩
  case opcode => exact opcodeByte_eq_lookup .sbc v.mode

/-! ## Increment and decrement -/

theorem incByte_toNat (v : Byte) : (incByte v).toNat = (v.toNat + 1) % 256 := by
  rw [incByte, BitVec.toNat_ofNat, Nat.mod_mod]

theorem decByte_toNat (v : Byte) : (decByte v).toNat = (v.toNat + 255) % 256 := by
  rw [decByte, BitVec.toNat_ofNat, Nat.mod_mod]

/-- An instruction that replaces the byte at an operand in its own mode by `f` of it completes, and changes that byte,
N and Z after it, and the program counter alone (R150). -/
theorem completes_of_exec_eq_modifyMem {i : Instr} {f : Byte → Byte} {m : AddrOperand} {s : State}
    (hexec : exec i s = .next (modifyMem f m s)) (hmode : i.mode = m.mode) {n : Nat}
    (hn : (f (memRead s (resolveAddr m s))).toNat = n) :
    ∃ t v, exec i s = .next t ∧ v.toNat = n ∧
      StoredOnly (resolveAddr m s) v s t ∧ NZFollow v t.flags ∧ PcPast i s t ∧
      t = { s with pc := t.pc, mem := t.mem, flags := { s.flags with n := t.flags.n, z := t.flags.z } } :=
  ⟨modifyMem f m s, f (memRead s (resolveAddr m s)), hexec, hn, storedOnly_memWrite _ _ (fetched m.mode s),
    nzFollow_setNZ _ _, pcPast_of_pc_eq (by rw [hmode]; rfl), rfl⟩

/-- Settles O32: INC and DEC are one operation with two functions of the byte, and each opcode clause is the handler's
row of R86. -/
theorem incAndDecModifyOneByte : Obligations.IncAndDecModifyOneByte := by
  intro m s
  refine ⟨?inc, ?dec, ?incOpcode, ?decOpcode⟩
  case inc => exact completes_of_exec_eq_modifyMem rfl rfl (incByte_toNat _)
  case dec => exact completes_of_exec_eq_modifyMem rfl rfl (decByte_toNat _)
  case incOpcode => exact opcodeByte_eq_lookup .inc m.mode
  case decOpcode => exact opcodeByte_eq_lookup .dec m.mode

/-- Settles O33: each of the four writes one register with the stepped byte, so its frame is a record equation. -/
theorem indexIncrementAndDecrement : Obligations.IndexIncrementAndDecrement := by
  intro s
  have hnz (v : Byte) : NZFollow v (setNZ v s.flags) := nzFollow_setNZ v s.flags
  refine ⟨?inx, rfl, ?iny, rfl, ?dex, rfl, ?dey, rfl⟩
  case inx => exact ⟨stepRegister State.setX (incByte s.x) s, rfl, incByte_toNat s.x, hnz _, pcPast_of_pc_eq rfl, rfl⟩
  case iny => exact ⟨stepRegister State.setY (incByte s.y) s, rfl, incByte_toNat s.y, hnz _, pcPast_of_pc_eq rfl, rfl⟩
  case dex => exact ⟨stepRegister State.setX (decByte s.x) s, rfl, decByte_toNat s.x, hnz _, pcPast_of_pc_eq rfl, rfl⟩
  case dey => exact ⟨stepRegister State.setY (decByte s.y) s, rfl, decByte_toNat s.y, hnz _, pcPast_of_pc_eq rfl, rfl⟩

end Sys2Proof.Machine
end

section
/-! SUPPORT. Logical and compare instructions settled (R161 to R166). -/

namespace Sys2Proof.Machine

/-! ## Logical -/

/-- An instruction that combines the accumulator and an operand in its own mode by `op`, which acts on each bit as
`bit`, completes, and changes the accumulator, N and Z after it, and the program counter alone (R160). -/
theorem completes_of_exec_eq_logical {i : Instr} {op : Byte → Byte → Byte} {bit : Bool → Bool → Bool}
    {v : ValueOperand} {s : State} (hexec : exec i s = .next (logical op v s)) (hmode : i.mode = v.mode)
    (hbit : ∀ (a m : Byte) (k : Nat), (op a m).getLsbD k = bit (a.getLsbD k) (m.getLsbD k)) :
    ∃ t, exec i s = .next t ∧
      (∀ k < 8, t.a.getLsbD k = bit (s.a.getLsbD k) ((resolveValue v s).getLsbD k)) ∧
      NZFollow t.a t.flags ∧ PcPast i s t ∧
      t = { s with a := t.a, pc := t.pc, flags := { s.flags with n := t.flags.n, z := t.flags.z } } :=
  ⟨logical op v s, hexec, fun k _ => hbit _ _ k, nzFollow_setNZ _ _, pcPast_of_pc_eq (by rw [hmode]; rfl), rfl⟩

/-- Settles O34: the three are one operation with three functions of the bits, and each opcode clause is the handler's
row of R86. -/
theorem logicalInstructionsWorkBitwise : Obligations.LogicalInstructionsWorkBitwise := by
  intro v s
  refine ⟨?and, ?ora, ?eor, ?andOpcode, ?oraOpcode, ?eorOpcode⟩
  case and => exact completes_of_exec_eq_logical rfl rfl fun _ _ _ => BitVec.getLsbD_and
  case ora => exact completes_of_exec_eq_logical rfl rfl fun _ _ _ => BitVec.getLsbD_or
  case eor => exact completes_of_exec_eq_logical rfl rfl fun _ _ _ => BitVec.getLsbD_xor
  case andOpcode => exact opcodeByte_eq_lookup .and v.mode
  case oraOpcode => exact opcodeByte_eq_lookup .ora v.mode
  case eorOpcode => exact opcodeByte_eq_lookup .eor v.mode

/-! ## Compare -/

/-- An instruction that compares `reg` with an operand in its own mode completes, and changes C, Z, N and V, each as
`Compare` gives it (R124), and the program counter alone (R160). -/
theorem completes_of_exec_eq_compareReg {i : Instr} {reg : Byte} {v : ValueOperand} {s : State}
    (hexec : exec i s = .next (compareReg reg v s)) (hmode : i.mode = v.mode) :
    ∃ t, exec i s = .next t ∧
      (t.flags.c = true ↔ (resolveValue v s).toNat ≤ reg.toNat) ∧ (t.flags.z = true ↔ reg = resolveValue v s) ∧
      (t.flags.n = true ↔ 128 ≤ (reg.toNat + 256 - (resolveValue v s).toNat) % 256) ∧
      t.flags.v = (negAdd reg (resolveValue v s) false).v ∧ PcPast i s t ∧
      t = { s with
        pc := t.pc
        flags := { s.flags with n := t.flags.n, v := t.flags.v, z := t.flags.z, c := t.flags.c } } := by
  obtain ⟨hc, hz, hn, hv, -⟩ := compareSetsCarryZeroNegativeOverflow reg (resolveValue v s) s.flags s.flags
  exact ⟨compareReg reg v s, hexec, hc, hz, hn, hv, pcPast_of_pc_eq (by rw [hmode]; rfl), rfl⟩

/-- Settles O35: the three compares are one operation on three registers, and each opcode clause is the handler's row
of R86. -/
theorem comparesWriteFlagsOnly : Obligations.ComparesWriteFlagsOnly := by
  intro v s
  refine ⟨?cmp, ?cpx, ?cpy, ?cmpOpcode, ?cpxOpcode, ?cpyOpcode⟩
  case cmp | cpx | cpy => exact completes_of_exec_eq_compareReg rfl rfl
  case cmpOpcode => exact opcodeByte_eq_lookup .cmp v.mode
  case cpxOpcode => exact opcodeByte_eq_lookup .cpx v.mode
  case cpyOpcode => exact opcodeByte_eq_lookup .cpy v.mode

end Sys2Proof.Machine
end

section
/-! SUPPORT. Shift and rotate settled (R171 to R174). -/

namespace Sys2Proof.Machine

/-! ## The common effect of the four -/

theorem shiftReads_shiftOld (o : ShiftOperand) (s : State) : ShiftReads o s (shiftOld o s) := by
  cases o <;> rfl

section
variable (kind : ShiftKind) (o : ShiftOperand) (s : State)

theorem shiftRotate_pc : (shiftRotate kind o s).pc = (fetched o.mode s).pc := by
  cases o <;> rfl

/-- The operand takes the shift's new byte, and beside it only C, N, Z and the program counter change (R170). -/
theorem shiftedTo_shiftRotate :
    ShiftedTo o (shift kind (shiftOld o s) s.flags.c).1 s (shiftRotate kind o s) := by
  refine ⟨nzFollow_setNZ _ _, ?_⟩
  cases o with
  | acc => rfl
  | mem m => exact ⟨storedOnly_memWrite _ _ (fetched m.mode s), rfl⟩

end

/-- An instruction that shifts an operand in its own mode completes. Where the shift makes `value old` of the old byte
and pushes out a bit that is 1 under the condition `out old`, the operand and C are those, and what else changes is N
and Z after the new byte and the program counter (R170). -/
theorem completes_of_exec_eq_shiftRotate {i : Instr} {kind : ShiftKind} {o : ShiftOperand} {s : State}
    {value : Byte → Nat} {out : Byte → Prop} (hexec : exec i s = .next (shiftRotate kind o s))
    (hmode : i.mode = o.mode) (hvalue : ∀ old, (shift kind old s.flags.c).1.toNat = value old)
    (hout : ∀ old, (shift kind old s.flags.c).2 = true ↔ out old) :
    ∃ t old new, exec i s = .next t ∧ ShiftReads o s old ∧ new.toNat = value old ∧
      (t.flags.c = true ↔ out old) ∧ ShiftedTo o new s t ∧ PcPast i s t :=
  ⟨shiftRotate kind o s, shiftOld o s, (shift kind (shiftOld o s) s.flags.c).1, hexec, shiftReads_shiftOld o s,
    hvalue _, hout _, shiftedTo_shiftRotate kind o s, pcPast_of_pc_eq (by rw [hmode, shiftRotate_pc])⟩

/-! ## The four instructions -/

/-- Settles O36: ASL pushes out bit 7 and LSR bit 0, and each opcode clause is the handler's row of R86. -/
theorem plainShiftsMoveOneBitOut : Obligations.PlainShiftsMoveOneBitOut := by
  intro o s
  refine ⟨?asl, ?lsr, ?aslOpcode, ?lsrOpcode⟩
  case asl => exact completes_of_exec_eq_shiftRotate rfl rfl (shift_asl_toNat · _) getLsbD_seven_iff
  case lsr => exact completes_of_exec_eq_shiftRotate rfl rfl (shift_lsr_toNat · _) getLsbD_zero_iff
  case aslOpcode => exact opcodeByte_eq_lookup .asl o.mode
  case lsrOpcode => exact opcodeByte_eq_lookup .lsr o.mode

/-- Settles O37: the two rotates are the same operation with the old carry shifted in, and each opcode clause is the
handler's row of R86. -/
theorem rotatesMoveThroughTheCarry : Obligations.RotatesMoveThroughTheCarry := by
  intro o s
  refine ⟨?rol, ?ror, ?rolOpcode, ?rorOpcode⟩
  case rol => exact completes_of_exec_eq_shiftRotate rfl rfl (shift_rol_toNat · _) getLsbD_seven_iff
  case ror => exact completes_of_exec_eq_shiftRotate rfl rfl (shift_ror_toNat · _) getLsbD_zero_iff
  case rolOpcode => exact opcodeByte_eq_lookup .rol o.mode
  case rorOpcode => exact opcodeByte_eq_lookup .ror o.mode

end Sys2Proof.Machine
end

section
/-! SUPPORT. Conditional branches settled (R180 to R188). -/

namespace Sys2Proof.Machine

/-- Where a branch leaves the program counter (R180). -/
theorem branch_pc_toNat (cond : Bool) (rel8 : Byte) (s : State) :
    ((branch cond rel8 s).pc.toNat : Int) = (s.pc.toNat + 2 + (if cond then rel8.toInt else 0)) % 65536 := by
  have hpast : (fetched .rel s).pc.toNat = (s.pc.toNat + 2) % 65536 := fetched_pc_toNat .rel s
  rw [branch_eq]
  cases cond with
  | false => simp only [Bool.false_eq_true, if_false]; omega
  | true =>
    have hdisp := sext16_toInt rel8
    simp only [if_true, BitVec.toNat_add]
    omega

/-- An instruction whose meaning is the branch on `cond` completes, and changes the program counter alone (R180). -/
theorem branchesOn_of_exec_eq_branch {i : Instr} {cond : Bool} {rel8 : Byte} {s : State}
    (hexec : exec i s = .next (branch cond rel8 s)) : BranchesOn i cond rel8 s :=
  ⟨branch cond rel8 s, hexec, branch_eq cond rel8 s, branch_pc_toNat cond rel8 s⟩

/-- Settles O38: the eight branches are one operation on eight conditions, and each has one opcode byte. -/
theorem branchesAddTheDisplacementIfTaken : Obligations.BranchesAddTheDisplacementIfTaken := by
  intro d s
  refine ⟨?bpl, rfl, ?bmi, rfl, ?bvc, rfl, ?bvs, rfl, ?bcc, rfl, ?bcs, rfl, ?bne, rfl, ?beq, rfl⟩
  case bpl | bmi | bvc | bvs | bcc | bcs | bne | beq => exact branchesOn_of_exec_eq_branch rfl

end Sys2Proof.Machine
end

section
/-! SUPPORT. Jump, subroutine call and return settled (R190 to R194). -/

namespace Sys2Proof.Machine

/-! ## Jumps -/

/-- Settles O39: a jump overwrites the program counter that the fetch moved, with the operand or with the word the
pointer read gives. -/
theorem jumpsSetTheProgramCounter : Obligations.JumpsSetTheProgramCounter := by
  intro w s
  refine ⟨?jmpAbs, rfl, ?jmpInd, rfl⟩
  case jmpAbs => rfl
  case jmpInd => exact ⟨s.setPc (read16 s w), rfl, rfl, read16_toNat s w⟩

/-! ## The addresses below and above the stack pointer -/

/-- The address below the stack pointer's wraps in page 1 (R29). -/
theorem stackAddr_sub_one_toNat (sp : Byte) : (stackAddr (sp - 1)).toNat = 0x0100 + (sp.toNat + 255) % 256 := by
  rw [stackAddr_toNat]
  bv_omega

/-- The addresses above the stack pointer's wrap in page 1 (R29). -/
theorem stackAddr_add_toNat (sp k : Byte) : (stackAddr (sp + k)).toNat = 0x0100 + (sp.toNat + k.toNat) % 256 := by
  rw [stackAddr_toNat, BitVec.toNat_add]

/-! ## Call -/

/-- A call makes two pushes, of the address after its three bytes, and sets the program counter (R192). -/
theorem exec_jsr (w : Word) (s : State) :
    exec (.jsr w) s = .next ((push8 (loByte (s.pc + 3)) (push8 (hiByte (s.pc + 3)) s)).setPc w) := rfl

/-- The address after a call instruction. -/
theorem return_address_toNat (s : State) : (s.pc + 3).toNat = (s.pc.toNat + 3) % 65536 := BitVec.toNat_add _ _

section
variable {w : Word} {s t : State}

/-- A call lowers the stack pointer by its two pushes. -/
theorem sp_of_jsr (h : exec (.jsr w) s = .next t) : t.sp = s.sp - 1 - 1 := by
  cases h; rfl

/-- The first of a call's two stores is the high byte of the return address. -/
theorem memRead_jsr_high (h : exec (.jsr w) s = .next t) : memRead t (stackAddr s.sp) = hiByte (s.pc + 3) :=
  memRead_exec_stored h List.mem_cons_self

/-- The second of a call's two stores is the low byte of the return address. -/
theorem memRead_jsr_low (h : exec (.jsr w) s = .next t) : memRead t (stackAddr (s.sp - 1)) = loByte (s.pc + 3) :=
  memRead_exec_stored h (List.mem_cons_of_mem _ List.mem_cons_self)

/-- A call stores at its two pushed addresses alone. -/
theorem memRead_jsr_other (h : exec (.jsr w) s = .next t) {b : Word} (hhigh : b ≠ stackAddr s.sp)
    (hlow : b ≠ stackAddr (s.sp - 1)) : memRead t b = memRead s b :=
  memRead_exec_other h (by simpa [storedAddrs, storedCells] using And.intro hhigh hlow)

end

/-- Settles O40: memory takes the two stored cells of a call and nothing else; the rest is the two pushes and the
jump. -/
theorem jsrPushesTheReturnAddress : Obligations.JsrPushesTheReturnAddress := by
  intro w s
  have hexec := exec_jsr w s
  refine ⟨_, hexec, rfl, ?sp, ?high, ?low, ?other, rfl, rfl⟩
  case sp =>
    rw [sp_of_jsr hexec]
    bv_omega
  case high =>
    rw [← stackAddr_toNat, ← memRead, memRead_jsr_high hexec, hiByte_toNat, return_address_toNat]
  case low =>
    rw [← stackAddr_sub_one_toNat, ← memRead, memRead_jsr_low hexec, loByte_toNat, return_address_toNat]
  case other =>
    intro b hhigh hlow
    exact memRead_jsr_other hexec (fun h => hhigh (by rw [h, stackAddr_toNat]))
      (fun h => hlow (by rw [h, stackAddr_sub_one_toNat]))

/-! ## Return -/

/-- A return takes the program counter from the two bytes above the stack pointer, low byte first, and raises the
stack pointer past them (R193). -/
theorem exec_rts (s : State) :
    exec .rts s = .next { s with
      pc := wordOf (memRead s (stackAddr (s.sp + 1 + 1))) (memRead s (stackAddr (s.sp + 1)))
      sp := s.sp + 1 + 1 } := rfl

/-- Settles O41: the two pops read at the addresses above the stack pointer. -/
theorem rtsPopsTheProgramCounter : Obligations.RtsPopsTheProgramCounter := by
  intro s
  have htwo : s.sp + 1 + 1 = s.sp + 2 := BitVec.add_assoc s.sp 1 1
  refine ⟨_, exec_rts s, ?pc, ?sp, rfl, rfl⟩
  case pc =>
    simp only [wordOf_toNat, memRead, htwo, stackAddr_add_toNat]
    rfl
  case sp =>
    rw [htwo, BitVec.toNat_add]
    rfl

/-! ## Call and return -/

/-- Settles O48: with the stack pointer the call left, the two pops read where the two pushes wrote, so they form the
return address again and take the stack pointer back. -/
theorem callAndReturnRoundTrip : Obligations.CallAndReturnRoundTrip := by
  intro w s t u hcall hsp hhigh hlow
  have hlowAddr : u.sp + 1 = s.sp - 1 := by rw [hsp, sp_of_jsr hcall, BitVec.sub_add_cancel]
  have hback : s.sp - 1 + 1 = s.sp := BitVec.sub_add_cancel s.sp 1
  replace hhigh := hhigh.trans (memRead_jsr_high hcall)
  replace hlow := hlow.trans (memRead_jsr_low hcall)
  refine ⟨?highByte, ?lowByte, _, exec_rts u, ?pc, ?sp⟩
  case highByte => rw [hhigh, hiByte_toNat, return_address_toNat]
  case lowByte => rw [hlow, loByte_toNat, return_address_toNat]
  case pc =>
    simp only [hlowAddr, hback, hhigh, hlow, wordOf_hiByte_loByte]
    exact return_address_toNat s
  case sp => rw [hlowAddr, hback]

end Sys2Proof.Machine
end

section
/-! SUPPORT. Flag, stack and termination instructions and the invalid-opcode handler settled (R200 to R211), and which
steps leave Running (R250, R257, R260). -/

namespace Sys2Proof.Machine

/-! ## Flag instructions -/

/-- A one-byte instruction that replaces the flags by `f` completes, and changes them and the program counter alone
(R200). -/
theorem completes_of_exec_eq_flagOp {i : Instr} {f : Flags} {s : State} (hexec : exec i s = .next (flagOp f s))
    (hmode : i.mode = .imp) :
    ∃ t, exec i s = .next t ∧ PcPast i s t ∧ t = { s with pc := t.pc, flags := f } :=
  ⟨flagOp f s, hexec, pcPast_of_pc_eq (by rw [hmode]; rfl), rfl⟩

/-- Settles O42: the seven are one operation with seven values of the flags, and each has one opcode byte. -/
theorem flagInstructionsWriteOneConstant : Obligations.FlagInstructionsWriteOneConstant := by
  intro s
  refine ⟨?clc, rfl, ?sec, rfl, ?cli, rfl, ?sei, rfl, ?clv, rfl, ?cld, rfl, ?sed, rfl⟩
  case clc | sec | cli | sei | clv | cld | sed => exact completes_of_exec_eq_flagOp rfl rfl

/-! ## Stack instructions -/

/-- Settles O43: PHA is the push of the accumulator after the fetch, so the rule of the push gives the stored byte, the
stack pointer and the frame. -/
theorem phaPushesTheAccumulator : Obligations.PhaPushesTheAccumulator := by
  intro s
  obtain ⟨hstored, hsp, -⟩ := pushAndPopAreInverse (fetched .imp s) s.a
  exact ⟨push8 s.a (fetched .imp s), rfl, hstored, hsp, pcPast_of_pc_eq rfl, rfl, rfl⟩

/-- PLA raises the stack pointer and takes the accumulator, N and Z from the byte it then designates (R209). -/
theorem exec_pla (s : State) :
    exec .pla s = .next { s with
      a := memRead s (stackAddr (s.sp + 1))
      sp := s.sp + 1
      pc := (fetched .imp s).pc
      flags := setNZ (memRead s (stackAddr (s.sp + 1))) s.flags } := rfl

/-- Settles O44: the byte read is the one above the stack pointer, whose address wraps in page 1. -/
theorem plaPullsTheAccumulator : Obligations.PlaPullsTheAccumulator := by
  intro s
  have hread : memRead s (stackAddr (s.sp + 1)) = s.mem.read (0x0100 + (s.sp.toNat + 1) % 256) :=
    congrArg s.mem.read (stackAddr_add_toNat s.sp 1)
  exact ⟨_, exec_pla s, BitVec.toNat_add _ _, hread, nzFollow_setNZ _ _, pcPast_of_pc_eq rfl, rfl, rfl⟩

/-! ## The halting events -/

theorem exec_brk (s : State) : exec .brk s = .next { s with pc := s.pc + 1, halt := .halted .none } := rfl

theorem exec_invalid (op : Byte) (s : State) :
    exec (.invalid op) s = .next { s with pc := s.pc + 1, halt := .halted (.invalidOpcode s.pc) } := rfl

/-- Settles O45: each event is a write of the halt register after the fetch of one byte. -/
theorem haltingEventsWriteTheHaltRegisterOnly : Obligations.HaltingEventsWriteTheHaltRegisterOnly := by
  intro op s
  have hpc : (s.pc + 1).toNat = (s.pc.toNat + 1) % 65536 := BitVec.toNat_add _ _
  obtain ⟨-, -, -, hsentinel, -⟩ := invalidBytesAreTheListed117
  exact ⟨⟨_, exec_brk s, hpc, rfl⟩, rfl, ⟨_, exec_invalid op s, hpc, rfl⟩, hsentinel op⟩

/-! ## Which steps leave Running -/

theorem eq_brk_of_handler {i : Instr} (h : i.handler = .brk) : i = .brk := by
  cases i with
  | brk => rfl
  | _ => cases h

/-- A Running unit halts on the halt opcode, with no reason (R210). -/
theorem step_halts_of_haltOpcode {s : State} (hrun : s.halt = .running) (hop : memRead s s.pc = Config.haltOpcode) :
    ∃ t, step s = .next t ∧ t.halt = .halted .none := by
  obtain ⟨i, hf⟩ := exists_fetchInstr s
  have hbrk : i.handler = .brk := by rw [handler_of_fetchInstr hf, hop]; rfl
  obtain rfl := eq_brk_of_handler hbrk
  exact ⟨_, step_of_fetchInstr hrun hf, rfl⟩

/-- A Running unit goes on after every other byte: the byte names the handler, and only two handlers halt. -/
theorem step_runs_on {s t : State} (hrun : s.halt = .running) (h : step s = .next t)
    (hbrk : memRead s s.pc ≠ Config.haltOpcode) (hinv : memRead s s.pc ∉ invalidBytes) : t.halt = .running := by
  obtain ⟨i, hf⟩ := exists_fetchInstr s
  have hop := handler_of_fetchInstr hf
  rw [step_of_fetchInstr hrun hf] at h
  obtain hkeep | ⟨hhandler, -⟩ | ⟨hhandler, -⟩ := exec_halt h
  · exact hkeep.trans hrun
  · exact absurd (eq_haltOpcode_of_handler_brk _ (hop.symm.trans hhandler)) hbrk
  · exact absurd (mem_invalidBytes_of_handler_invalid _ (hop.symm.trans hhandler)) hinv

/-- Settles O52: one clause for each of the three kinds of opcode byte. -/
theorem onlyHaltingInstructionsHalt : Obligations.OnlyHaltingInstructionsHalt := by
  intro s t hrun h
  refine ⟨fun hbrk => ?_, fun hinv => ?_, step_runs_on hrun h⟩
  · obtain ⟨u, hu, hhalt⟩ := step_halts_of_haltOpcode hrun hbrk
    cases h.symm.trans hu
    exact hhalt
  · obtain ⟨u, hu, hhalt⟩ := step_halts_of_mem_invalidBytes hrun hinv
    cases h.symm.trans hu
    exact hhalt

end Sys2Proof.Machine
end

section
/-! SUPPORT. The execution loop and the host's operations settled (R221 to R226, R236 to R243, R269), with the reset and
the launch (R280, R282, R293). -/

namespace Sys2Proof.Machine

/-! ## The step -/

/-- Settles O8: the decoded bytes are the fetched ones. -/
theorem stepRunsTheDecodedInstruction : Obligations.StepRunsTheDecodedInstruction :=
  fun _ _ rest hrun hdec => step_of_fetchInstr hrun (fetchInstr_eq_ok_iff.mpr ⟨rest, hdec⟩)

/-! ## The run -/

theorem run_of_halted {s : State} {reason : HaltReason} (hhalt : s.halt = .halted reason) (k : Nat) :
    run k s = .next s := by
  cases k with
  | zero => rfl
  | succ k => simp only [run, hhalt]

/-- A run with fuel begins with a step, also of a Halted unit, which the step leaves as it is. -/
theorem run_succ {s t : State} (h : step s = .next t) (k : Nat) : run (k + 1) s = run k t := by
  cases hhalt : s.halt with
  | halted reason =>
    rw [step_of_halted hhalt] at h
    cases h
    rw [run_of_halted hhalt, run_of_halted hhalt]
  | running => simp only [run, hhalt, h]

theorem core_run_succ {s t : State} (h : step s = .next t) (k : Nat) :
    Host.Core.run core (k + 1) s = Host.Core.run core k t := by
  have hcore : core.step s = .next t := h
  simp only [Host.Core.run, hcore]

/-- A run is as many steps (R225). -/
theorem run_eq_core_run (k : Nat) (s : State) : run k s = Host.Core.run core k s := by
  induction k generalizing s with
  | zero => rfl
  | succ k ih =>
    obtain ⟨t, ht⟩ := stepAlwaysAnswersANextState s
    rw [run_succ ht, ih]
    exact (core_run_succ ht k).symm

/-- Every run answers, since every step does. -/
theorem exists_run (k : Nat) (s : State) : ∃ t, run k s = .next t := by
  induction k generalizing s with
  | zero => exact ⟨s, rfl⟩
  | succ k ih =>
    obtain ⟨t, ht⟩ := stepAlwaysAnswersANextState s
    rw [run_succ ht]
    exact ih t

/-- More fuel goes on from where the run with less has ended. -/
theorem run_add {k : Nat} (j : Nat) {s t : State} (h : run k s = .next t) : run (k + j) s = run j t := by
  induction k generalizing s with
  | zero => cases h; rw [Nat.zero_add]
  | succ k ih =>
    obtain ⟨u, hu⟩ := stepAlwaysAnswersANextState s
    rw [run_succ hu] at h
    rw [Nat.add_right_comm, run_succ hu]
    exact ih h

theorem perform_run {k : Nat} {s t : State} (h : run k s = .next t) (m0 : Memory) :
    perform m0 (.run k) s = .next (runReply t.halt, t) := by
  simp only [perform, h, withReply]

theorem perform_singleStep {s t : State} (h : step s = .next t) (m0 : Memory) :
    perform m0 .singleStep s = .next (.done, t) := by
  simp only [perform, singleStep, h, withReply]

/-- Settles O54: a run goes step by step, and more fuel adds steps of a Halted unit. -/
theorem runIsRepeatedSingleStep : Obligations.RunIsRepeatedSingleStep := by
  refine ⟨run_eq_core_run, fun k j s t h hended => ?_, fun m0 k s => ?_⟩
  · rw [run_add j h]
    cases hhalt : t.halt with
    | running => exact absurd hhalt hended
    | halted reason => exact run_of_halted hhalt j
  · obtain ⟨t, h⟩ := exists_run k s
    refine ⟨t, h, fun hhalt => ?_, fun reason hhalt => ?_⟩
    · rw [perform_run h, hhalt]; rfl
    · rw [perform_run h, hhalt]; rfl

/-! ## The host's operations -/

/-- Settles O9: a step and a run of a Halted unit give the same state back, and the operations left over do not write
the halt register. -/
theorem haltedStepChangesNothing : Obligations.HaltedStepChangesNothing := by
  intro s reason fuel hhalt
  refine ⟨step_of_halted hhalt, step_of_halted hhalt, run_of_halted hhalt fuel, fun m0 act hact => ?_⟩
  cases act with
  | reset => exact absurd rfl hact
  | run k => exact ⟨_, s, perform_run (run_of_halted hhalt k) m0, hhalt⟩
  | singleStep => exact ⟨.done, s, perform_singleStep (step_of_halted hhalt) m0, hhalt⟩
  | writeByte addr v => exact ⟨.done, memWrite addr v s, rfl, hhalt⟩
  | readByte | snapshot | disassemble => exact ⟨_, s, rfl, hhalt⟩

/-- Settles O55: each operation is its own definition; WriteByte has the frame of a write, and the step answers. -/
theorem hostOperationsDoWhatTheyName : Obligations.HostOperationsDoWhatTheyName := by
  intro m0 s addr v n
  obtain ⟨t, ht⟩ := stepAlwaysAnswersANextState s
  exact ⟨rfl, ⟨memWrite addr v s, rfl, storedOnly_memWrite addr v s, rfl⟩, rfl, rfl,
    t, ht, perform_singleStep ht m0⟩

/-! ## Reset and launch -/

/-- Settles O14: the reset state is written out in the model, field by field. -/
theorem resetLeavesTheStatedValues : Obligations.ResetLeavesTheStatedValues :=
  fun m0 _ => ⟨State.resetTo m0, rfl, rfl, rfl, rfl, rfl, rfl, rfl, rfl, rfl, rfl, rfl, rfl, rfl, rfl, fun _ => rfl⟩

/-- The memory with an image loaded from `a` upward: the image's byte where there is one, else the byte of before. -/
theorem read_loadBytes (bs : List Byte) (a : Nat) (m : Memory) (b : Nat) :
    (loadBytes bs a m).read b = if a ≤ b then bs.getD (b - a) (m.read b) else m.read b := by
  induction bs generalizing a m with
  | nil => simp [loadBytes]
  | cons v bs ih =>
    rw [loadBytes, ih]
    obtain hlt | rfl | hgt := Nat.lt_trichotomy a b
    · have hsucc : b - a = b - (a + 1) + 1 := by omega
      rw [if_pos (Nat.succ_le_of_lt hlt), if_pos hlt.le, hsucc, List.getD_cons_succ,
        Memory.read_write_other m v hlt.ne']
    · simp [Memory.read_write_same]
    · rw [if_neg (by omega), if_neg (by omega), Memory.read_write_other m v hgt.ne]

/-- Settles O15: the image is loaded from address 0 over memory that reads 0x00 everywhere. -/
theorem launchMemoryHoldsTheImage : Obligations.LaunchMemoryHoldsTheImage := by
  intro image
  refine ⟨fun hfits => ⟨if_pos hfits, fun a => ?_⟩, fun hlong => if_neg (Nat.not_le.mpr hlong)⟩
  exact (read_loadBytes image 0 [] a.toNat).trans (if_pos (Nat.zero_le _))

/-- The loader's writes from `a` upward load the bytes, as long as no address passes the top of memory. -/
theorem performAll_loaderWrites (m0 : Memory) (bs : List Byte) {a : Nat} (s : State)
    (hfits : a + bs.length ≤ Config.memorySize) :
    ∃ replies, performAll m0 (loaderWrites bs a) s = .next (replies, s.setMem (loadBytes bs a s.mem)) := by
  induction bs generalizing a s with
  | nil => exact ⟨[], rfl⟩
  | cons v bs ih =>
    rw [List.length_cons] at hfits
    have haddr : (BitVec.ofNat 16 a).toNat = a := Nat.mod_eq_of_lt (by simp only [Config.memorySize] at hfits; omega)
    have hmem : (memWrite (BitVec.ofNat 16 a) v s).mem = s.mem.write a v := congrArg (s.mem.write · v) haddr
    obtain ⟨replies, hrest⟩ := ih (a := a + 1) (memWrite (BitVec.ofNat 16 a) v s) (by omega)
    refine ⟨.done :: replies, ?_⟩
    simp only [loaderWrites, performAll, perform, hrest, hmem]
    rfl

/-- Settles O16: both load the image from address 0 over the empty memory. -/
theorem loaderWritesReachTheLaunchState : Obligations.LoaderWritesReachTheLaunchState := by
  intro image hfits
  obtain ⟨replies, h⟩ := performAll_loaderWrites [] image (a := 0) State.reset (by rwa [Nat.zero_add])
  exact ⟨replies, _, h, if_pos hfits⟩

/-- Settles O17: the zero-filled memory holds the halt opcode at address 0. -/
theorem zeroFilledMemoryHaltsAtOnce : Obligations.ZeroFilledMemoryHaltsAtOnce :=
  (step_of_fetchInstr rfl rfl).trans (exec_brk State.reset)

end Sys2Proof.Machine
end

section
/-! SUPPORT. The disassembler settled (R227 to R233), and that it reads the bytes that execution reads (R245). -/

namespace Sys2Proof.Machine

/-! ## The bytes of a line -/

/-- The byte `k` places above `a`, addresses modulo 65536. -/
theorem byteAt_add (m : Memory) (a : Word) (k : Nat) :
    byteAt m (a + BitVec.ofNat 16 k) = m.read ((a.toNat + k) % 65536) := by
  rw [byteAt, BitVec.toNat_add, BitVec.toNat_ofNat, Nat.add_mod_mod]

/-- The bytes of a line are those from its address upward, as many as the mode says (R229). -/
theorem instrBytes_eq_map_range (m : Memory) (a : Word) :
    instrBytes m a =
      (List.range (1 + (oprom (byteAt m a)).mode.operandBytes)).map fun k => byteAt m (a + BitVec.ofNat 16 k) := by
  have hlen := operandBytes_le_two (oprom (byteAt m a)).mode
  have hthree : [byteAt m a, byteAt m (a + 1), byteAt m (a + 2)] =
      (List.range 3).map fun k => byteAt m (a + BitVec.ofNat 16 k) := by
    simp [List.range_succ]
  rw [instrBytes, hthree, ← List.map_take, List.take_range, Nat.min_eq_left (by omega)]

theorem lineAt_bytes_length (m : Memory) (a : Word) :
    (lineAt m a).bytes.length = 1 + (oprom (byteAt m a)).mode.operandBytes := by
  rw [lineAt, instrBytes_eq_map_range, List.length_map, List.length_range]

/-! ## The walk -/

section
variable (m : Memory) (start : Word) (length : Nat)

theorem disasmFrom_of_le {off : Nat} (h : length ≤ off) (k : Nat) : disasmFrom m start length k off = [] := by
  cases k with
  | zero => rfl
  | succ k => rw [disasmFrom, if_neg (by omega)]

/-- A walk from an offset is a walk of the rest of the range from the address there. -/
theorem disasmFrom_add (k n off : Nat) :
    disasmFrom m start length k (n + off) = disasmFrom m (start + BitVec.ofNat 16 n) (length - n) k off := by
  induction k generalizing off with
  | zero => rfl
  | succ k ih =>
    have hlt : n + off < length ↔ off < length - n := by omega
    simp only [disasmFrom, hlt, BitVec.ofNat_add, ← BitVec.add_assoc, Nat.add_assoc, ih]

/-- The bound on the number of lines does not matter once it covers the range: every line advances. -/
theorem disasmFrom_bound {k k' off : Nat} (hk : length ≤ off + k) (hk' : length ≤ off + k') :
    disasmFrom m start length k off = disasmFrom m start length k' off := by
  induction k generalizing k' off with
  | zero => rw [disasmFrom_of_le m start length (by omega), disasmFrom_of_le m start length (by omega)]
  | succ k ih =>
    cases k' with
    | zero => rw [disasmFrom_of_le m start length (by omega), disasmFrom_of_le m start length (by omega)]
    | succ k' => simp only [disasmFrom]; rw [ih (k' := k')] <;> omega

/-- A range that is not empty gives the line at its start and then the lines of the rest (R229). -/
theorem disassemble_of_pos (hpos : 0 < length) :
    disassemble m start length = lineAt m start ::
      disassemble m (start + BitVec.ofNat 16 (lineAt m start).bytes.length)
        (length - (lineAt m start).bytes.length) := by
  obtain ⟨k, rfl⟩ := Nat.exists_eq_add_one.mpr hpos
  have hlen := lineAt_bytes_length m start
  have hstart : start + BitVec.ofNat 16 0 = start := BitVec.add_zero start
  have hrest : disasmFrom m start (k + 1) k (lineAt m start).bytes.length =
      disassemble m (start + BitVec.ofNat 16 (lineAt m start).bytes.length) (k + 1 - (lineAt m start).bytes.length) :=
    (disasmFrom_add m start (k + 1) k _ 0).trans (disasmFrom_bound _ _ _ (by omega) (by omega))
  rw [← hrest]
  simp only [disassemble, disasmFrom, hpos, if_true, hstart, Nat.zero_add, hlen]

end

/-- Settles O56: the walk's first line and the rest of the range, and the four fields of a line. -/
theorem disassemblerWalksInstructionByInstruction : Obligations.DisassemblerWalksInstructionByInstruction := by
  intro m start length
  refine ⟨rfl, disassemble_of_pos m start length, rfl, ?bytes, rfl, ?operand⟩
  case bytes =>
    simp only [lineAt, instrBytes_eq_map_range, byteAt_add]
    rfl
  case operand =>
    rw [← byteAt_add, ← byteAt_add]
    rfl

/-! ## Execution and the disassembler -/

/-- The line at the program counter holds the encoding of the instruction fetched there. -/
theorem lineAt_bytes_eq_encode {s : State} {i : Instr} (h : fetchInstr s = .ok i) :
    (lineAt s.mem s.pc).bytes = encode i := by
  obtain ⟨hmode, hencode⟩ := mode_and_encode_of_fetchInstr h
  rw [hencode, hmode, ← List.take_succ_cons, Nat.add_comm]
  rfl

/-- An instruction that does not branch, jump, call or return moves the program counter past its bytes (R23). -/
theorem pcPast_of_exec {i : Instr} {s t : State} (h : exec i s = .next t) (hrel : i.mode ≠ .rel)
    (hjump : i.handler ∉ [.jmpAbs, .jmpInd, .jsr, .rts]) : PcPast i s t := by
  cases i with
  | bpl | bmi | bvc | bvs | bcc | bcs | bne | beq => exact absurd rfl hrel
  | jmpAbs | jmpInd | jsr | rts => exact absurd (by simp [Instr.handler]) hjump
  | asl o | lsr o | rol o | ror o => cases h; exact pcPast_of_pc_eq (shiftRotate_pc _ o s)
  | _ => cases h; exact pcPast_of_pc_eq rfl

/-- Settles O6: the line's bytes are the instruction's encoding, which decodes to it alone. -/
theorem executionAndDisassemblyReadTheSameBytes : Obligations.ExecutionAndDisassemblyReadTheSameBytes := by
  intro s i h
  obtain ⟨rest, hdec⟩ := fetchInstr_eq_ok_iff.mp h
  obtain ⟨hwf, -⟩ := decode_eq_ok_iff.mp hdec
  obtain ⟨hmode, -⟩ := mode_and_encode_of_fetchInstr h
  refine ⟨lineAt_bytes_length s.mem s.pc, by rw [Instr.length, hmode], ?decodes, fun hrel hjump => ?moves⟩
  case decodes => rw [lineAt_bytes_eq_encode h, decode_eq_ok_iff]; exact ⟨hwf, List.append_nil _⟩
  case moves =>
    obtain ⟨t, ht⟩ := exists_exec i s
    exact ⟨t, ht, pcPast_of_exec ht hrel hjump⟩

/-! ## The text -/

theorem hexDigit_eq : ∀ n < 16, hexDigit n = "0123456789abcdef".toList.getD n '?' := by decide

theorem hexByte_toList (v : Byte) : (hexByte v).toList =
    [v.toNat / 16, v.toNat % 16].map fun d => "0123456789abcdef".toList.getD d '?' := by
  rw [hexByte, String.toList_ofList, hexDigit_eq _ (by omega), hexDigit_eq _ (by omega)]
  rfl

theorem hexWord_toList (w : Word) : (hexWord w).toList =
    [w.toNat / 4096, w.toNat / 256 % 16, w.toNat / 16 % 16, w.toNat % 16].map
      fun d => "0123456789abcdef".toList.getD d '?' := by
  have h3 : w.toNat / 256 / 16 = w.toNat / 4096 := by omega
  have h1 : w.toNat % 256 / 16 = w.toNat / 16 % 16 := by omega
  have h0 : w.toNat % 256 % 16 = w.toNat % 16 := by omega
  rw [hexWord, String.toList_append, hexByte_toList, hexByte_toList, hiByte_toNat, loByte_toNat, h3, h1, h0]
  rfl

/-- The target of a branch line is the address after the two bytes plus the signed displacement (R231). -/
theorem branchTarget_toNat (a : Word) (rel8 : Byte) :
    ((branchTarget a rel8).toNat : Int) = (a.toNat + 2 + rel8.toInt) % 65536 := by
  have hdisp := sext16_toInt rel8
  have hpast : (a + 2).toNat = (a.toNat + 2) % 65536 := BitVec.toNat_add _ _
  rw [branchTarget, BitVec.toNat_add]
  omega

/-- Settles O58: each form is the table's row, and the digits are the values of the hexadecimal places. -/
theorem operandStringsFollowTheTable : Obligations.OperandStringsFollowTheTable := by
  refine ⟨fun a b1 b2 => ?_, hexByte_toList, hexWord_toList⟩
  exact ⟨rfl, rfl, rfl, rfl, rfl, rfl, rfl, rfl, rfl, rfl, rfl, rfl, rfl,
    wordOf_toNat b2 b1, branchTarget_toNat a b1⟩

/-- Settles O57, by evaluation of the disassembler. -/
theorem disassemblyTextMatchesTheExamples : Obligations.DisassemblyTextMatchesTheExamples := by
  unfold Obligations.DisassemblyTextMatchesTheExamples
  decide

end Sys2Proof.Machine
end
